-- ==== Sys2Proof/Word.lean ====
section
/-! DEFINITION. Bytes and frames: a byte is an 8-bit value (R9), a frame a finite list of bytes,
index 0 transmitted first (R10). -/

namespace Sys2Proof

/-- R9: "A byte is an 8-bit unsigned value 0..255 (Lean `UInt8` or `BitVec 8`)". -/
abbrev Byte := BitVec 8

/-- R10: a frame is a finite list of bytes, `f[0]` transmitted first. -/
abbrev Frame := List Byte

end Sys2Proof
end

