-- ==== Sys2Proof/Machine/Flags.lean ====
section
/-! DEFINITION. The block has no flags and no condition codes (R24), and no command computes one. What
the source calls the flags byte is a field of a frame; it and the other truth byte are here. -/

namespace Sys2Proof.Machine

/-- R72: `boolByte(b) = if b then 0x01 else 0x00` (the true byte: the spec's decision D5, log 7). -/
def boolByte (b : Bool) : Byte := if b then 0x01 else 0x00

/-- R73: the flags byte, bit 0 = lock and bits 7:1 = 0 (the spec's decision D6, log 7; conflict C2). -/
def lockFlags (lock : Bool) : Byte := boolByte lock

end Sys2Proof.Machine
end

