-- ==== Sys2Proof/Config.lean ====
section
/-! DEFINITION. What the implementation or the outside world fixes (R7): the names of the command
set's opcodes and sub-codes, the types of the sink port and of the command port, and the parameters the
spec leaves OPEN, each an opaque constant without a body, so that a proof holds whatever it is. -/

namespace Sys2Proof

/-- R49: the fixed set of seven opcodes. Their byte values are `Opcode.byte` (Machine/Format.lean). -/
inductive Opcode where
  | trackControl
  | stopAll
  | masterVolume
  | trackVolume
  | trackFade
  | resumeAllSync
  | sampleRateOffset
deriving DecidableEq, Repr

/-- R50: the fixed set of eight track-control sub-codes. Their byte values are `SubCode.byte`. -/
inductive SubCode where
  | playSolo
  | playPoly
  | pause
  | resume
  | stop
  | loopOn
  | loopOff
  | load
deriving DecidableEq, Repr

namespace Config

/-- R7 `Sink`, R20, D12: which labels are failure values of the bound sink. OPEN (log 4): this makes the type
`SinkErr` the model parameter that R20 asks for. -/
opaque isSinkErr : Nat → Bool

/-- The label of one failure value of the bound sink; no proof can tell which number it is. OPEN (log 4). -/
opaque someSinkErr : Nat

end Config

/-- R20: "`SinkErr`: an opaque type, a model parameter", the sink's own failure value, "whatever signal the
sink's contract defines" (R97). Which values the type has is fixed by constants of Config without a body, so
that nothing can be proved of their number, and of no number that it is one of them. DESIGN CHOICE (log 4): a
value is held as a label, because a state must be comparable plain data, and there is at least one value. No
operation looks at the label. -/
structure SinkErr where
  label : Nat
  isValue : label = Config.someSinkErr ∨ Config.isSinkErr label = true
deriving DecidableEq, Repr

/-- A failure value of the bound sink, whichever it is. -/
def SinkErr.some : SinkErr := ⟨Config.someSinkErr, .inl rfl⟩

/-- R20: the sink's answer to one request. -/
inductive SinkStatus where
  | ok
  | err (e : SinkErr)
deriving DecidableEq, Repr, Inhabited

/-- The two requests the encoder can make of the sink (R26 (b), R104). -/
inductive SinkRequest where
  /-- `SinkInit(rate)`, R80 -/
  | init (rate : Nat)
  /-- `SinkWrite(f)`, R35 -/
  | write (frame : Frame)
deriving DecidableEq, Repr, Inhabited

/-- R7 `UART_FRAMING`: "data bits, parity, stop bits of a serial character", which no source gives. DESIGN
CHOICE (log 29), the FORM of this parameter: three whole numbers of bits, so that parity is a number of bits
without a kind (even, odd) and a fractional number of stop bits is not expressible. -/
structure UartFraming where
  dataBits : Nat
  parityBits : Nat
  stopBits : Nat
deriving DecidableEq, Repr, Inhabited

namespace Machine

/-- R67: the tagged type the command port carries, 14 operations in the source's table order. -/
inductive Cmd where
  | start
  | setMasterGain (out gain : Int)
  | playTrackSolo (trk out : Int) (lock : Bool)
  | playTrackPoly (trk out : Int) (lock : Bool)
  | loadTrack (trk out : Int) (lock : Bool)
  | stopTrack (trk : Int)
  | pauseTrack (trk : Int)
  | resumeTrack (trk : Int)
  | setTrackLoop (trk : Int) (enable : Bool)
  | stopAllTracks
  | resumeAllInSync
  | setTrackGain (trk gain : Int)
  | fadeTrack (trk gain timeMs : Int) (stopAtEnd : Bool)
  | setSampleRateOffset (out offset : Int)
deriving DecidableEq, Repr

end Machine

/-- R67, D2: a binary command word, as bytes. The source defines none (N11). -/
abbrev CmdWord := List Byte

/-- D2: the type of the parameter `CmdWordMap`, the word-to-`Cmd` map of a model with binary command words;
`none` where the map gives a word no command. -/
abbrev CmdWordMap := CmdWord → Option Machine.Cmd

namespace Config

/-- R67, D2 `CmdWordMap`: "a model that needs a binary command word takes the word-to-`Cmd` map as a
parameter". OPEN (log 28): nothing is known of it. -/
opaque cmdWordMap : CmdWordMap

/-- R7 `Sink`, R22, D12: the sink's status for a request is "a draw ... under no law". FREE VALUE
(log 3): the answer the sink gives as its `n`-th draw, where the state schedules none. -/
opaque sinkAnswer : Nat → SinkRequest → SinkStatus

/-- How far R7's `HOST_INT_BITS` lies above 16. OPEN (D3, log 5). -/
opaque hostIntSlack : Nat

/-- R7 `HOST_INT_BITS`: "width of the caller's `int`; at least 16; no encoding depends on it". -/
def hostIntBits : Nat := 16 + hostIntSlack

/-- R7 `UART_FRAMING`. OPEN (D24, log 21): "no rule depends on it". -/
opaque uartFraming : UartFraming

/-- R19, I5: what byte `i` of a new scratch buffer holds before it is written: "its value is
unspecified, and no rule can observe it". FREE VALUE (log 17). -/
opaque scratchByte : Nat → Byte

end Config

end Sys2Proof
end

