-- ==== Sys2Proof/Machine/Format.lean ====
section
/-! DEFINITION. The constants of the wire format: markers (R47), opcode bytes (R49), sub-code bytes
(R50), frame lengths (R48) and the bit rate (R7, R80). -/

namespace Sys2Proof.Machine

/-- R47: the byte at index 0. -/
def startMarker1 : Byte := 0xF0

/-- R47: the byte at index 1. -/
def startMarker2 : Byte := 0xAA

/-- R47: the last byte. -/
def endMarker : Byte := 0x55

/-- R7 `BIT_RATE`: "57600, fixed, passed to the sink by `start`". -/
def bitRate : Nat := 57600

end Sys2Proof.Machine

namespace Sys2Proof

/-- R49: the byte at index 3. -/
def Opcode.byte : Opcode → Byte
  | .trackControl => 0x03
  | .stopAll => 0x04
  | .masterVolume => 0x05
  | .trackVolume => 0x08
  | .trackFade => 0x0A
  | .resumeAllSync => 0x0B
  | .sampleRateOffset => 0x0C

/-- R48: `FRAME_LEN(opcode)`, the count of every byte of the frame, both ends' markers included
(conflict C1), a constant per opcode (conflict C4). -/
def Opcode.frameLen : Opcode → Nat
  | .trackControl => 10
  | .stopAll => 5
  | .masterVolume => 8
  | .trackVolume => 9
  | .trackFade => 12
  | .resumeAllSync => 5
  | .sampleRateOffset => 8

/-- R50: the byte at index 4 of a TRACK_CONTROL frame. -/
def SubCode.byte : SubCode → Byte
  | .playSolo => 0x00
  | .playPoly => 0x01
  | .pause => 0x02
  | .resume => 0x03
  | .stop => 0x04
  | .loopOn => 0x05
  | .loopOff => 0x06
  | .load => 0x07

end Sys2Proof
end

