-- ==== Sys2Proof/Machine/Operands.lean ====
section
/-! DEFINITION. The operand forms: byte extraction and 16-bit fields (R69, R70), the channel byte
(R71), frame assembly (R74, R76), and how a reader takes a 16-bit field back (R31, R79). All are total
on every integer (R65, R78). -/

namespace Sys2Proof.Machine

/-- R69: `lo8(v) = v & 0xFF = v mod 256`, bits 7:0 of the two's-complement value. -/
def lo8 (v : Int) : Byte := BitVec.ofInt 8 v

/-- R69: `hi8(v) = (v >> 8) & 0xFF`, bits 15:8, with the arithmetic shift of R9 (log 25). -/
def hi8 (v : Int) : Byte := BitVec.ofInt 8 (v >>> (8 : Nat))

/-- R70: `splitLE16(v) = [lo8(v), hi8(v)]`, the low byte first (R29). -/
def splitLE16 (v : Int) : List Byte := [lo8 v, hi8 v]

/-- R71: `chan(out) = out & 0x3 = out mod 4`, one of the 4 output buses (R7 `N_CHANNELS`); the non-negative remainder for a negative `out` is the
spec's decision D4, from general knowledge (G1): PRESUMED (log 6). -/
def chan (out : Int) : Byte := BitVec.ofInt 8 (out % 4)

/-- R74: `packFrame(op, body) = [0xF0, 0xAA, FRAME_LEN(op), op] ++ body ++ [0x55]`. -/
def packFrame (op : Opcode) (body : List Byte) : Frame :=
  [startMarker1, startMarker2, BitVec.ofNat 8 op.frameLen, op.byte] ++ body ++ [endMarker]

/-- R76: the shared track-control routine, used by every TRACK_CONTROL operation (conflict C3). -/
def buildTrackControlFrame (track : Int) (subCode : SubCode) (out : Int) (flags : Byte) : Frame :=
  packFrame .trackControl ([subCode.byte] ++ splitLE16 track ++ [chan out, flags])

/-- R31, R79: a reader's value of a 16-bit field, `low | (high << 8)`. -/
def joinLE16 (lo hi : Byte) : Nat := lo.toNat ||| (hi.toNat <<< 8)

/-- R79: a reader's signed value of a gain or offset pair: `u - 65536` when `u >= 32768`, else `u`. -/
def readS16 (lo hi : Byte) : Int :=
  if 32768 ≤ joinLE16 lo hi then (joinLE16 lo hi : Int) - 65536 else (joinLE16 lo hi : Int)

/-- A reader's unsigned value of a track pair (and, log 18, of a time pair). -/
def readU16 (lo hi : Byte) : Int := (joinLE16 lo hi : Int)

/-- The unsigned 16-bit value `v` is sent as (R78: "reduced modulo 2^16"). -/
def wrapU16 (v : Int) : Int := v % 65536

/-- The signed value a reader takes from what `v` is sent as (R78, R79). -/
def wrapS16 (v : Int) : Int := if 32768 ≤ v % 65536 then v % 65536 - 65536 else v % 65536

end Sys2Proof.Machine
end

