-- ==== Sys2Proof/Syntax.lean ====
section
/-! DEFINITION. The command set: one constructor per row of spec/opcode_table.json (R66), parameters
in the source's order (R67). Integer parameters are mathematical integers of any size and sign (R67,
D3, log 5), since "no command input is illegal" (R65). -/

namespace Sys2Proof

/-- The 15 rows of spec/opcode_table.json. The one operation `setTrackLoop(trk, enable)` has two
rows (R66, R90); `Machine.Cmd` (Machine/State.lean) is the command port's type with 14 operations. -/
inductive Instr where
  /-- R80 -/
  | start
  /-- R82 -/
  | setMasterGain (out gain : Int)
  /-- R83 -/
  | setSampleRateOffset (out offset : Int)
  /-- R84 -/
  | playTrackSolo (trk out : Int) (lock : Bool)
  /-- R85 -/
  | playTrackPoly (trk out : Int) (lock : Bool)
  /-- R86 -/
  | loadTrack (trk out : Int) (lock : Bool)
  /-- R87 -/
  | stopTrack (trk : Int)
  /-- R88 -/
  | pauseTrack (trk : Int)
  /-- R89 -/
  | resumeTrack (trk : Int)
  /-- R90, `enable = true`: row `setTrackLoop.on` -/
  | setTrackLoopOn (trk : Int)
  /-- R90, `enable = false`: row `setTrackLoop.off` -/
  | setTrackLoopOff (trk : Int)
  /-- R91 -/
  | stopAllTracks
  /-- R92 -/
  | resumeAllInSync
  /-- R93 -/
  | setTrackGain (trk gain : Int)
  /-- R94 -/
  | fadeTrack (trk gain timeMs : Int) (stopAtEnd : Bool)
deriving DecidableEq, Repr

end Sys2Proof
end

