-- ==== Sys2Proof/WellFormed.lean ====
section
/-! DEFINITION. Which instructions a frame can carry without loss. NO COMMAND IS ILLEGAL (R65): an
instruction that is not well formed here runs all the same, with its operands masked and truncated
(R69, R71). `Instr.wellFormed` says only that every operand is a value its frame field reads back as:
a track number and a fade time 0..65535, a gain and an offset -32768..32767, a channel 0..3. -/

namespace Sys2Proof

/-- A value of an unsigned 16-bit field (track number, R84: "a 16-bit unsigned index"). -/
def isU16 (v : Int) : Bool := decide (0 ≤ v ∧ v < 65536)

/-- A value of a signed 16-bit field (gain, offset: R82, R83 "signed 16-bit"). -/
def isS16 (v : Int) : Bool := decide (-32768 ≤ v ∧ v < 32768)

/-- A value of the channel field, "values 0–3" (R57). -/
def isChan (v : Int) : Bool := decide (0 ≤ v ∧ v < 4)

/-- Every operand is a value its field can carry (R56 to R59). The fade time, whose sign the source
does not state (R94, N14), counts as unsigned here: DESIGN CHOICE (log 18), of the reader only. -/
def Instr.wellFormed : Instr → Bool
  | .start => true
  | .setMasterGain out gain => isChan out && isS16 gain
  | .setSampleRateOffset out offset => isChan out && isS16 offset
  | .playTrackSolo trk out _ => isU16 trk && isChan out
  | .playTrackPoly trk out _ => isU16 trk && isChan out
  | .loadTrack trk out _ => isU16 trk && isChan out
  | .stopTrack trk => isU16 trk
  | .pauseTrack trk => isU16 trk
  | .resumeTrack trk => isU16 trk
  | .setTrackLoopOn trk => isU16 trk
  | .setTrackLoopOff trk => isU16 trk
  | .stopAllTracks => true
  | .resumeAllInSync => true
  | .setTrackGain trk gain => isU16 trk && isS16 gain
  | .fadeTrack trk gain timeMs _ => isU16 trk && isS16 gain && isU16 timeMs

/-- The integer a caller of an `n`-bit `int` passes for `v`: bits n-1:0 read as two's complement
(R7 `HOST_INT_BITS`, D3). -/
def hostInt (n : Nat) (v : Int) : Int := (BitVec.ofInt n v).toInt

/-- The instruction with every integer operand narrowed to an `n`-bit caller `int` (R7, D3). -/
def Instr.narrow (n : Nat) : Instr → Instr
  | .start => .start
  | .setMasterGain out gain => .setMasterGain (hostInt n out) (hostInt n gain)
  | .setSampleRateOffset out offset => .setSampleRateOffset (hostInt n out) (hostInt n offset)
  | .playTrackSolo trk out lock => .playTrackSolo (hostInt n trk) (hostInt n out) lock
  | .playTrackPoly trk out lock => .playTrackPoly (hostInt n trk) (hostInt n out) lock
  | .loadTrack trk out lock => .loadTrack (hostInt n trk) (hostInt n out) lock
  | .stopTrack trk => .stopTrack (hostInt n trk)
  | .pauseTrack trk => .pauseTrack (hostInt n trk)
  | .resumeTrack trk => .resumeTrack (hostInt n trk)
  | .setTrackLoopOn trk => .setTrackLoopOn (hostInt n trk)
  | .setTrackLoopOff trk => .setTrackLoopOff (hostInt n trk)
  | .stopAllTracks => .stopAllTracks
  | .resumeAllInSync => .resumeAllInSync
  | .setTrackGain trk gain => .setTrackGain (hostInt n trk) (hostInt n gain)
  | .fadeTrack trk gain timeMs stopAtEnd =>
    .fadeTrack (hostInt n trk) (hostInt n gain) (hostInt n timeMs) stopAtEnd

end Sys2Proof
end

