-- ==== Sys2Proof/Decode.lean ====
section
/-! DEFINITION. From bytes to instructions and back: the machine-readable opcode table (R66), the
decoder, total on any bytes and rejecting by name, the encoder written from the format tables R51 to
R55 and the operation map R60, and the reader of a wire that delimits frames by the length field
(R61, R62).

The words decoded here are the TABLE WORDS, the frame patterns of spec/opcode_table.json, the empty
word for `start`, which emits no frame. That the command port takes a table word as the command that
emits it is this model's own: DESIGN CHOICE (log 2). A binary command word of R67 is another thing: it
is read through the parameter `Config.cmdWordMap` (D2, log 28), never by this decoder. What the
PERIPHERAL does with a frame this reader rejects is outside the block (R64, N9, log 23). -/

namespace Sys2Proof

open Machine

/-- A row of spec/opcode_table.json (R66): the fixed bits of each byte, index 0 first. -/
structure Row where
  mnemonic : String
  pattern : Frame
  mask : Frame
deriving DecidableEq, Repr

/-- R66: "a frame `f` is an instance of the row when `len(f)` equals the row's byte count and
`f[i] & mask[i] = match[i]` for every index". -/
def Row.isInstance (r : Row) (f : Frame) : Bool :=
  f.length == r.pattern.length && List.zipWith (· &&& ·) f r.mask == r.pattern

/-- R80, row `start`. -/
def Row.start : Row :=
  ⟨"start",
   [],
   []⟩

/-- R82, row `setMasterGain`. -/
def Row.setMasterGain : Row :=
  ⟨"setMasterGain",
   [0xF0, 0xAA, 0x08, 0x05, 0x00, 0x00, 0x00, 0x55],
   [0xFF, 0xFF, 0xFF, 0xFF, 0xFC, 0x00, 0x00, 0xFF]⟩

/-- R83, row `setSampleRateOffset`. -/
def Row.setSampleRateOffset : Row :=
  ⟨"setSampleRateOffset",
   [0xF0, 0xAA, 0x08, 0x0C, 0x00, 0x00, 0x00, 0x55],
   [0xFF, 0xFF, 0xFF, 0xFF, 0xFC, 0x00, 0x00, 0xFF]⟩

/-- R84, row `playTrackSolo`. -/
def Row.playTrackSolo : Row :=
  ⟨"playTrackSolo",
   [0xF0, 0xAA, 0x0A, 0x03, 0x00, 0x00, 0x00, 0x00, 0x00, 0x55],
   [0xFF, 0xFF, 0xFF, 0xFF, 0xFF, 0x00, 0x00, 0xFC, 0xFE, 0xFF]⟩

/-- R85, row `playTrackPoly`. -/
def Row.playTrackPoly : Row :=
  ⟨"playTrackPoly",
   [0xF0, 0xAA, 0x0A, 0x03, 0x01, 0x00, 0x00, 0x00, 0x00, 0x55],
   [0xFF, 0xFF, 0xFF, 0xFF, 0xFF, 0x00, 0x00, 0xFC, 0xFE, 0xFF]⟩

/-- R86, row `loadTrack`. -/
def Row.loadTrack : Row :=
  ⟨"loadTrack",
   [0xF0, 0xAA, 0x0A, 0x03, 0x07, 0x00, 0x00, 0x00, 0x00, 0x55],
   [0xFF, 0xFF, 0xFF, 0xFF, 0xFF, 0x00, 0x00, 0xFC, 0xFE, 0xFF]⟩

/-- R87, row `stopTrack`. -/
def Row.stopTrack : Row :=
  ⟨"stopTrack",
   [0xF0, 0xAA, 0x0A, 0x03, 0x04, 0x00, 0x00, 0x00, 0x00, 0x55],
   [0xFF, 0xFF, 0xFF, 0xFF, 0xFF, 0x00, 0x00, 0xFF, 0xFF, 0xFF]⟩

/-- R88, row `pauseTrack`. -/
def Row.pauseTrack : Row :=
  ⟨"pauseTrack",
   [0xF0, 0xAA, 0x0A, 0x03, 0x02, 0x00, 0x00, 0x00, 0x00, 0x55],
   [0xFF, 0xFF, 0xFF, 0xFF, 0xFF, 0x00, 0x00, 0xFF, 0xFF, 0xFF]⟩

/-- R89, row `resumeTrack`. -/
def Row.resumeTrack : Row :=
  ⟨"resumeTrack",
   [0xF0, 0xAA, 0x0A, 0x03, 0x03, 0x00, 0x00, 0x00, 0x00, 0x55],
   [0xFF, 0xFF, 0xFF, 0xFF, 0xFF, 0x00, 0x00, 0xFF, 0xFF, 0xFF]⟩

/-- R90, row `setTrackLoop.on`. -/
def Row.setTrackLoopOn : Row :=
  ⟨"setTrackLoop.on",
   [0xF0, 0xAA, 0x0A, 0x03, 0x05, 0x00, 0x00, 0x00, 0x00, 0x55],
   [0xFF, 0xFF, 0xFF, 0xFF, 0xFF, 0x00, 0x00, 0xFF, 0xFF, 0xFF]⟩

/-- R90, row `setTrackLoop.off`. -/
def Row.setTrackLoopOff : Row :=
  ⟨"setTrackLoop.off",
   [0xF0, 0xAA, 0x0A, 0x03, 0x06, 0x00, 0x00, 0x00, 0x00, 0x55],
   [0xFF, 0xFF, 0xFF, 0xFF, 0xFF, 0x00, 0x00, 0xFF, 0xFF, 0xFF]⟩

/-- R91, row `stopAllTracks`. -/
def Row.stopAllTracks : Row :=
  ⟨"stopAllTracks",
   [0xF0, 0xAA, 0x05, 0x04, 0x55],
   [0xFF, 0xFF, 0xFF, 0xFF, 0xFF]⟩

/-- R92, row `resumeAllInSync`. -/
def Row.resumeAllInSync : Row :=
  ⟨"resumeAllInSync",
   [0xF0, 0xAA, 0x05, 0x0B, 0x55],
   [0xFF, 0xFF, 0xFF, 0xFF, 0xFF]⟩

/-- R93, row `setTrackGain`. -/
def Row.setTrackGain : Row :=
  ⟨"setTrackGain",
   [0xF0, 0xAA, 0x09, 0x08, 0x00, 0x00, 0x00, 0x00, 0x55],
   [0xFF, 0xFF, 0xFF, 0xFF, 0x00, 0x00, 0x00, 0x00, 0xFF]⟩

/-- R94, row `fadeTrack`. -/
def Row.fadeTrack : Row :=
  ⟨"fadeTrack",
   [0xF0, 0xAA, 0x0C, 0x0A, 0x00, 0x00, 0x00, 0x00, 0x00, 0x00, 0x00, 0x55],
   [0xFF, 0xFF, 0xFF, 0xFF, 0x00, 0x00, 0x00, 0x00, 0x00, 0x00, 0xFE, 0xFF]⟩

/-- The 15 rows of spec/opcode_table.json, in its order. -/
def opcodeTable : List Row :=
  [Row.start, Row.setMasterGain, Row.setSampleRateOffset, Row.playTrackSolo, Row.playTrackPoly,
   Row.loadTrack, Row.stopTrack, Row.pauseTrack] ++
  [Row.resumeTrack, Row.setTrackLoopOn, Row.setTrackLoopOff, Row.stopAllTracks,
   Row.resumeAllInSync, Row.setTrackGain, Row.fadeTrack]

/-- The table's row of an instruction. -/
def Instr.row : Instr → Row
  | .start => Row.start
  | .setMasterGain _ _ => Row.setMasterGain
  | .setSampleRateOffset _ _ => Row.setSampleRateOffset
  | .playTrackSolo _ _ _ => Row.playTrackSolo
  | .playTrackPoly _ _ _ => Row.playTrackPoly
  | .loadTrack _ _ _ => Row.loadTrack
  | .stopTrack _ => Row.stopTrack
  | .pauseTrack _ => Row.pauseTrack
  | .resumeTrack _ => Row.resumeTrack
  | .setTrackLoopOn _ => Row.setTrackLoopOn
  | .setTrackLoopOff _ => Row.setTrackLoopOff
  | .stopAllTracks => Row.stopAllTracks
  | .resumeAllInSync => Row.resumeAllInSync
  | .setTrackGain _ _ => Row.setTrackGain
  | .fadeTrack _ _ _ _ => Row.fadeTrack

/-- Why a byte string is no table word, by the first field that is not as the format tables say. -/
inductive DecodeError where
  /-- one to three bytes: no opcode byte -/
  | tooShort
  /-- bytes 0 and 1 are not 0xF0, 0xAA (R47) -/
  | startMarkers
  /-- byte 2 is not the number of bytes, or not the opcode's FRAME_LEN (R48) -/
  | lengthField
  /-- byte 3 is none of the seven opcodes (R49, R64) -/
  | unknownOpcode
  /-- byte 4 of a TRACK_CONTROL frame is none of the eight sub-codes (R50, R64) -/
  | unknownSubCode
  /-- bits 7:2 of a channel byte are set, or the constant channel byte is not 0 (R57, R87 to R90) -/
  | channelByte
  /-- bits 7:1 of a flags byte are set, or the constant flags byte is not 0 (R56, R87 to R90) -/
  | flagsByte
  /-- the stop-at-end byte is neither 0x00 nor 0x01 (R58) -/
  | stopAtEndByte
  /-- the last byte is not 0x55 (R47) -/
  | endMarker
deriving DecidableEq, Repr

/-- R52: the body and end marker of an `F8` frame. -/
def decodeF8 (mk : Int → Int → Instr) : Frame → Except DecodeError Instr
  | [c, lo, hi, e] =>
    if e ≠ Machine.endMarker then .error .endMarker
    else if c &&& 0xFC ≠ 0 then .error .channelByte
    else .ok (mk c.toNat (readS16 lo hi))
  | _ => .error .lengthField

/-- R51: the end marker of an `F5` frame. -/
def decodeF5 (i : Instr) : Frame → Except DecodeError Instr
  | [e] => if e ≠ Machine.endMarker then .error .endMarker else .ok i
  | _ => .error .lengthField

/-- R53: the body and end marker of an `F9` frame. -/
def decodeF9 : Frame → Except DecodeError Instr
  | [tl, th, gl, gh, e] =>
    if e ≠ Machine.endMarker then .error .endMarker
    else .ok (.setTrackGain (readU16 tl th) (readS16 gl gh))
  | _ => .error .lengthField

/-- R55: the body and end marker of an `F12` frame. -/
def decodeF12 : Frame → Except DecodeError Instr
  | [tl, th, gl, gh, ml, mh, b, e] =>
    if e ≠ Machine.endMarker then .error .endMarker
    else if b &&& 0xFE ≠ 0 then .error .stopAtEndByte
    else .ok (.fadeTrack (readU16 tl th) (readS16 gl gh) (readU16 ml mh) (b == 0x01))
  | _ => .error .lengthField

/-- R84 to R86: the channel and flags bytes of a sub-code whose operation has `out` and `lock`. -/
def decodeRouted (mk : Int → Int → Bool → Instr) (trk : Int) (c fl : Byte) :
    Except DecodeError Instr :=
  if c &&& 0xFC ≠ 0 then .error .channelByte
  else if fl &&& 0xFE ≠ 0 then .error .flagsByte
  else .ok (mk trk c.toNat (fl == 0x01))

/-- R87 to R90: the channel and flags bytes, both 0, of a sub-code whose operation has only `trk`. -/
def decodeUnrouted (mk : Int → Instr) (trk : Int) (c fl : Byte) : Except DecodeError Instr :=
  if c ≠ 0 then .error .channelByte
  else if fl ≠ 0 then .error .flagsByte
  else .ok (mk trk)

/-- R50: the sub-code byte selects the operation. -/
def decodeSubCode (sub : Byte) (trk : Int) (c fl : Byte) : Except DecodeError Instr :=
  if sub = 0x00 then decodeRouted .playTrackSolo trk c fl
  else if sub = 0x01 then decodeRouted .playTrackPoly trk c fl
  else if sub = 0x02 then decodeUnrouted .pauseTrack trk c fl
  else if sub = 0x03 then decodeUnrouted .resumeTrack trk c fl
  else if sub = 0x04 then decodeUnrouted .stopTrack trk c fl
  else if sub = 0x05 then decodeUnrouted .setTrackLoopOn trk c fl
  else if sub = 0x06 then decodeUnrouted .setTrackLoopOff trk c fl
  else if sub = 0x07 then decodeRouted .loadTrack trk c fl
  else .error .unknownSubCode

/-- R54: the body and end marker of an `F10` frame. -/
def decodeF10 : Frame → Except DecodeError Instr
  | [sub, tl, th, c, fl, e] =>
    if e ≠ Machine.endMarker then .error .endMarker
    else decodeSubCode sub (readU16 tl th) c fl
  | _ => .error .lengthField

/-- R49: the opcode byte selects the format. -/
def decodeOpcode (op : Byte) (rest : Frame) : Except DecodeError Instr :=
  if op = 0x03 then decodeF10 rest
  else if op = 0x04 then decodeF5 .stopAllTracks rest
  else if op = 0x05 then decodeF8 .setMasterGain rest
  else if op = 0x08 then decodeF9 rest
  else if op = 0x0A then decodeF12 rest
  else if op = 0x0B then decodeF5 .resumeAllInSync rest
  else if op = 0x0C then decodeF8 .setSampleRateOffset rest
  else .error .unknownOpcode

/-- The instruction a table word stands for, or the name of the field that makes it none. -/
def decode (f : Frame) : Except DecodeError Instr :=
  match f with
  | [] => .ok .start
  | m1 :: m2 :: len :: op :: rest =>
    if m1 ≠ startMarker1 ∨ m2 ≠ startMarker2 then .error .startMarkers
    else if len.toNat ≠ f.length then .error .lengthField
    else decodeOpcode op rest
  | _ => .error .tooShort

/-- The words of an instruction, byte for byte from the format tables R51 to R55 and the operation map
R60, written apart from `packFrame`, which the meanings use. It is total: an operand that does not fit
its field is masked or truncated (R57, R59). -/
def encode : Instr → Frame
  | .start => []
  | .setMasterGain out gain => [0xF0, 0xAA, 0x08, 0x05, chan out, lo8 gain, hi8 gain, 0x55]
  | .setSampleRateOffset out offset =>
    [0xF0, 0xAA, 0x08, 0x0C, chan out, lo8 offset, hi8 offset, 0x55]
  | .playTrackSolo trk out lock =>
    [0xF0, 0xAA, 0x0A, 0x03, 0x00, lo8 trk, hi8 trk, chan out, lockFlags lock, 0x55]
  | .playTrackPoly trk out lock =>
    [0xF0, 0xAA, 0x0A, 0x03, 0x01, lo8 trk, hi8 trk, chan out, lockFlags lock, 0x55]
  | .loadTrack trk out lock =>
    [0xF0, 0xAA, 0x0A, 0x03, 0x07, lo8 trk, hi8 trk, chan out, lockFlags lock, 0x55]
  | .stopTrack trk => [0xF0, 0xAA, 0x0A, 0x03, 0x04, lo8 trk, hi8 trk, 0x00, 0x00, 0x55]
  | .pauseTrack trk => [0xF0, 0xAA, 0x0A, 0x03, 0x02, lo8 trk, hi8 trk, 0x00, 0x00, 0x55]
  | .resumeTrack trk => [0xF0, 0xAA, 0x0A, 0x03, 0x03, lo8 trk, hi8 trk, 0x00, 0x00, 0x55]
  | .setTrackLoopOn trk => [0xF0, 0xAA, 0x0A, 0x03, 0x05, lo8 trk, hi8 trk, 0x00, 0x00, 0x55]
  | .setTrackLoopOff trk => [0xF0, 0xAA, 0x0A, 0x03, 0x06, lo8 trk, hi8 trk, 0x00, 0x00, 0x55]
  | .stopAllTracks => [0xF0, 0xAA, 0x05, 0x04, 0x55]
  | .resumeAllInSync => [0xF0, 0xAA, 0x05, 0x0B, 0x55]
  | .setTrackGain trk gain =>
    [0xF0, 0xAA, 0x09, 0x08, lo8 trk, hi8 trk, lo8 gain, hi8 gain, 0x55]
  | .fadeTrack trk gain timeMs stopAtEnd =>
    [0xF0, 0xAA, 0x0C, 0x0A, lo8 trk, hi8 trk, lo8 gain, hi8 gain, lo8 timeMs, hi8 timeMs,
     boolByte stopAtEnd, 0x55]

/-- R63: the instruction with its operands reduced as the frame reduces them: channels modulo 4,
16-bit fields modulo 65536, gains and offsets read back as signed (R79). -/
def Instr.canon : Instr → Instr
  | .start => .start
  | .setMasterGain out gain => .setMasterGain (out % 4) (wrapS16 gain)
  | .setSampleRateOffset out offset => .setSampleRateOffset (out % 4) (wrapS16 offset)
  | .playTrackSolo trk out lock => .playTrackSolo (wrapU16 trk) (out % 4) lock
  | .playTrackPoly trk out lock => .playTrackPoly (wrapU16 trk) (out % 4) lock
  | .loadTrack trk out lock => .loadTrack (wrapU16 trk) (out % 4) lock
  | .stopTrack trk => .stopTrack (wrapU16 trk)
  | .pauseTrack trk => .pauseTrack (wrapU16 trk)
  | .resumeTrack trk => .resumeTrack (wrapU16 trk)
  | .setTrackLoopOn trk => .setTrackLoopOn (wrapU16 trk)
  | .setTrackLoopOff trk => .setTrackLoopOff (wrapU16 trk)
  | .stopAllTracks => .stopAllTracks
  | .resumeAllInSync => .resumeAllInSync
  | .setTrackGain trk gain => .setTrackGain (wrapU16 trk) (wrapS16 gain)
  | .fadeTrack trk gain timeMs stopAtEnd =>
    .fadeTrack (wrapU16 trk) (wrapS16 gain) (wrapU16 timeMs) stopAtEnd

/-- R61, R62: cut a wire into frames by the length field at byte 2, at most `fuel` frames. `none` where
the bytes left are fewer than a length field says, or a length field says less than the 5 bytes of the
envelope (R48). -/
def splitFrames : Nat → Frame → Option (List Frame)
  | _, [] => some []
  | 0, _ :: _ => none
  | fuel + 1, b :: bs =>
    match (b :: bs)[2]? with
    | none => none
    | some len =>
      if 5 ≤ len.toNat ∧ len.toNat ≤ (b :: bs).length then
        (splitFrames fuel ((b :: bs).drop len.toNat)).map
          (fun fs => (b :: bs).take len.toNat :: fs)
      else none

/-- R61: the frames of a wire, delimited by their length fields. -/
def wireFrames (w : Frame) : Option (List Frame) := splitFrames w.length w

/-- The instructions a list of frames stands for, `none` where one of them is no command's frame. -/
def decodeAll : List Frame → Option (List Instr)
  | [] => some []
  | f :: fs =>
    match decode f with
    | .ok i => (decodeAll fs).map (fun l => i :: l)
    | .error _ => none

/-- A reader of the wire: delimit by the length field, decode each frame. -/
def readWire (w : Frame) : Option (List Instr) := (wireFrames w).bind decodeAll

/-- The `n` bytes of the number `w`, the least significant first: DESIGN CHOICE (log 27). R66 gives a row
as a string of bytes, index 0 first, and no number; frame byte 0 is taken from the LOW 8 bits of `w`. -/
def wordBytes : Nat → Nat → Frame
  | 0, _ => []
  | n + 1, w => BitVec.ofNat 8 w :: wordBytes n (w / 256)

/-- The instruction the decoder reads from a table word of `nbits` bits: byte `k` of the frame is bits
8k+7..8k of `w`: DESIGN CHOICE (log 27), since R66 numbers no bits across bytes. A frame carries its own length (R61), so no byte follows the row's last. -/
def decodeTableWord (nbits w : Nat) : Option Instr :=
  match decode (wordBytes ((nbits + 7) / 8) w) with
  | .ok i => some i
  | .error _ => none

end Sys2Proof
end

