-- ==== Sys2Proof/Machine/State.lean ====
section
/-! DEFINITION. The machine's state, as plain data: the spec's own state `EncState` (R23), and beside it
the two parties outside the block, the caller's command port and the sink's answers. -/

namespace Sys2Proof.Machine

/-- R20: one request the encoder made of the sink, with the status the sink returned. -/
inductive SinkEvent where
  /-- from `start` (R80) -/
  | init (rate : Nat) (st : SinkStatus)
  /-- from every other command (R35) -/
  | write (frame : Frame) (st : SinkStatus)
deriving DecidableEq, Repr

/-- R23: the encoder's whole state. -/
structure EncState where
  /-- R18: "the number of commands that have returned"; unbounded -/
  pos : Nat
  /-- R20: every request made of the sink, in the order made, with the status returned -/
  hist : List SinkEvent
  /-- R21: whether the bytes on the physical line are determined -/
  wireKnown : Bool
deriving DecidableEq, Repr

/-- What the caller can present at the command port. The MODEL's own type (log 1). -/
inductive PortItem where
  /-- one command by value (R67, D2) -/
  | cmd (c : Cmd)
  /-- one binary command word, read through the parameter `CmdWordMap` (R67, D2, log 28) -/
  | word (w : CmdWord)
  /-- one word of the opcode table (R66), the bytes of a row's frame, read by the decoder. This is how a
  table word comes to be the next instruction; that the port takes one is the MODEL's choice (log 2) -/
  | tableWord (bytes : Frame)
  /-- two commands whose executions overlap in time (R44, R105), which the model refuses (log 13) -/
  | overlap (first second : Cmd)
deriving DecidableEq, Repr

/-- The machine: the encoder, and what the caller and the sink do to it. `port`, `returned`, `answers`
and `draws` are the MODEL's own fields (logs 1, 3, 16), not state of the block (R23). -/
structure State where
  /-- R23: the encoder's state -/
  enc : EncState
  /-- the commands the caller has yet to issue, the next one first: the command stream (R14, R18) -/
  port : List PortItem
  /-- R77 `return st`, R96: the status the last command gave back to the caller; `none` before any -/
  returned : Option SinkStatus
  /-- R22: the sink's coming answers, an arbitrary schedule; past its end an answer is the free value
  `Config.sinkAnswer` -/
  answers : List SinkStatus
  /-- how many answers the sink has given: what the free value is applied to -/
  draws : Nat
deriving DecidableEq, Repr

/-- Why the machine stops with a fault: never. R95: "The encoder raises no exception of its own"; "a
model must not fault". A sink failure is a status returned to the caller (R96, R101), not a fault. The
type is closed and has no constructor: no one raises it, which is safe. -/
inductive Fault where
deriving DecidableEq, Repr

/-- Why a step is refused. -/
inductive Refusal where
  /-- Raised by a dispatch arm of an instruction without a meaning. No arm raises it: every row of the
  table has its meaning. Safe. -/
  | notModelled (mnemonic : String)
  /-- Raised by the command port for a binary command word to which the parameter `CmdWordMap` gives no
  command (R67, D2, log 28). Safe: nothing is claimed of it. -/
  | unmappedCommandWord
  /-- Raised by the command port for a table word that is no row of the table (R64, I9: such a frame "has
  no meaning in this spec"; logs 2, 23). Safe: nothing is claimed of it. -/
  | badTableWord (why : DecodeError)
  /-- Raised by the command port for overlapping commands: R44 "A model admits one command at a time;
  overlapping commands are refused", R105, I7 (log 13). Safe: such a run has no next state. -/
  | overlappingCommands
deriving DecidableEq, Repr

/-- The machine right after reset. The encoder's three fields are R28's (the spec's decision D17,
log 12): `pos` 0, `hist` empty, `wireKnown` true. Nothing waits at the port, nothing has been returned
and no answer is scheduled: DESIGN CHOICE (logs 1, 3, 16), of the model's own fields. -/
def State.reset : State where
  enc := { pos := 0, hist := [], wireKnown := true }
  port := []
  returned := none
  answers := []
  draws := 0

end Sys2Proof.Machine
end

