-- ==== Sys2Proof/Machine/Ops.lean ====
section
/-! DEFINITION. The shared operations: the sink's answer (R22), the two common steps (R77, R80), the
wire (R21), and the operations of the caller's and the host's side (R109, R110, R122). There is no trap
to enter and none to return from (R101, R102): a failing command records its event and returns the
sink's status through `settle`, exactly as a successful one does. -/

namespace Sys2Proof.Machine

/-- R22: the sink's answer to a request: the next scheduled one, else the free draw. -/
def State.sinkAnswer (r : SinkRequest) (s : State) : SinkStatus :=
  match s.answers with
  | a :: _ => a
  | [] => Config.sinkAnswer s.draws r

/-- R77: the common step of a frame command, on the encoder's state and the sink's answer. -/
def stepFrame (f : Frame) (e : EncState) (st : SinkStatus) : EncState × SinkStatus :=
  ({ e with
      hist := e.hist ++ [SinkEvent.write f st]
      wireKnown := e.wireKnown && (st == SinkStatus.ok)
      pos := e.pos + 1 }, st)

/-- R80: the step of `start`: `SinkInit(rate)`; `wireKnown` unchanged (D16, log 11). -/
def stepStart (rate : Nat) (e : EncState) (st : SinkStatus) : EncState × SinkStatus :=
  ({ e with
      hist := e.hist ++ [SinkEvent.init rate st]
      pos := e.pos + 1 }, st)

/-- A command returns: the encoder's new state is kept, the status goes to the caller unmodified (R96),
and the sink has used up one answer. -/
def State.settle (s : State) (r : EncState × SinkStatus) : State :=
  { s with enc := r.1, returned := some r.2, answers := s.answers.tail, draws := s.draws + 1 }

/-- R35, R77: `SinkWrite(f)`, the whole effect of a frame command whose frame is `f`. -/
def sinkWrite (f : Frame) (s : State) : Host.Outcome State Fault Refusal :=
  .next (s.settle (stepFrame f s.enc (s.sinkAnswer (.write f))))

/-- R80: `SinkInit(rate)`, the whole effect of `start`. -/
def sinkInit (rate : Nat) (s : State) : Host.Outcome State Fault Refusal :=
  .next (s.settle (stepStart rate s.enc (s.sinkAnswer (.init rate))))

/-- The request an event records. -/
def SinkEvent.request : SinkEvent → SinkRequest
  | .init rate _ => .init rate
  | .write f _ => .write f

/-- The status an event records. -/
def SinkEvent.status : SinkEvent → SinkStatus
  | .init _ st => st
  | .write _ st => st

/-- R97: the one exception cause, `SinkFailure e`, of the command that made the request. -/
def SinkEvent.sinkFailure (ev : SinkEvent) : Option SinkErr :=
  match ev.status with
  | .ok => none
  | .err e => some e

/-- R21, R98: a failed `SinkWrite`, after which the line is not determined. -/
def SinkEvent.isFailedWrite : SinkEvent → Bool
  | .write _ (.err _) => true
  | _ => false

/-- R21: the bytes of one event the sink accepted for transmission. -/
def SinkEvent.accepted : SinkEvent → Frame
  | .write f .ok => f
  | _ => []

/-- R21: `wire(hist) = concat [ f | write f ok <- hist ]`. -/
def wire (hist : List SinkEvent) : Frame := (hist.map SinkEvent.accepted).flatten

/-- R122: the caller puts items at the end of the command stream. -/
def State.present (s : State) (items : List PortItem) : State :=
  { s with port := s.port ++ items }

/-- R110, I14: the host resets the block while the sink is still transmitting: the encoder is as after
reset but for `wireKnown`, which a model that admits such a reset must set to false. The step function
has no move for it (R122, log 14). -/
def State.resetMidTransmission : State :=
  { State.reset with enc := { State.reset.enc with wireKnown := false } }

end Sys2Proof.Machine
end

