-- ==== Sys2Proof/Machine/Global.lean ====
section
/-! DEFINITION. Global commands (spec file 44): stopAllTracks, resumeAllInSync. -/

namespace Sys2Proof.Machine

/-- R91: `packFrame(0x04, [])`. -/
def frameStopAllTracks : Frame := packFrame .stopAll []

/-- R91 `stopAllTracks()`. -/
def execStopAllTracks (s : State) : Host.Outcome State Fault Refusal :=
  sinkWrite frameStopAllTracks s

/-- R92: `packFrame(0x0B, [])`. -/
def frameResumeAllInSync : Frame := packFrame .resumeAllSync []

/-- R92 `resumeAllInSync()`. -/
def execResumeAllInSync (s : State) : Host.Outcome State Fault Refusal :=
  sinkWrite frameResumeAllInSync s

end Sys2Proof.Machine
end

