-- ==== Sys2Proof/Machine/Output.lean ====
section
/-! DEFINITION. Output-bus commands (spec file 42): setMasterGain, setSampleRateOffset. -/

namespace Sys2Proof.Machine

/-- R82: `packFrame(0x05, [chan(out)] ++ splitLE16(gain))`. -/
def frameSetMasterGain (out gain : Int) : Frame :=
  packFrame .masterVolume ([chan out] ++ splitLE16 gain)

/-- R82 `setMasterGain(out, gain)`. -/
def execSetMasterGain (out gain : Int) (s : State) : Host.Outcome State Fault Refusal :=
  sinkWrite (frameSetMasterGain out gain) s

/-- R83: `packFrame(0x0C, [chan(out)] ++ splitLE16(offset))`. -/
def frameSetSampleRateOffset (out offset : Int) : Frame :=
  packFrame .sampleRateOffset ([chan out] ++ splitLE16 offset)

/-- R83 `setSampleRateOffset(out, offset)`. -/
def execSetSampleRateOffset (out offset : Int) (s : State) : Host.Outcome State Fault Refusal :=
  sinkWrite (frameSetSampleRateOffset out offset) s

end Sys2Proof.Machine
end

