-- ==== Sys2Proof/Machine/TrackControl.lean ====
section
/-! DEFINITION. Track-control commands (spec file 43): seven operations, eight sub-codes, all built by
the shared routine of R76. -/

namespace Sys2Proof.Machine

/-- R84: `buildTrackControlFrame(trk, 0x00, out, lockFlags(lock))`. -/
def framePlayTrackSolo (trk out : Int) (lock : Bool) : Frame :=
  buildTrackControlFrame trk .playSolo out (lockFlags lock)

/-- R84 `playTrackSolo(trk, out, lock)`. -/
def execPlayTrackSolo (trk out : Int) (lock : Bool) (s : State) :
    Host.Outcome State Fault Refusal :=
  sinkWrite (framePlayTrackSolo trk out lock) s

/-- R85: `buildTrackControlFrame(trk, 0x01, out, lockFlags(lock))` (the spec's decision D7, log 8). -/
def framePlayTrackPoly (trk out : Int) (lock : Bool) : Frame :=
  buildTrackControlFrame trk .playPoly out (lockFlags lock)

/-- R85 `playTrackPoly(trk, out, lock)`. -/
def execPlayTrackPoly (trk out : Int) (lock : Bool) (s : State) :
    Host.Outcome State Fault Refusal :=
  sinkWrite (framePlayTrackPoly trk out lock) s

/-- R86: `buildTrackControlFrame(trk, 0x07, out, lockFlags(lock))` (the spec's decision D7, log 8). -/
def frameLoadTrack (trk out : Int) (lock : Bool) : Frame :=
  buildTrackControlFrame trk .load out (lockFlags lock)

/-- R86 `loadTrack(trk, out, lock)`. -/
def execLoadTrack (trk out : Int) (lock : Bool) (s : State) : Host.Outcome State Fault Refusal :=
  sinkWrite (frameLoadTrack trk out lock) s

/-- R87: `buildTrackControlFrame(trk, 0x04, 0, 0x00)`. -/
def frameStopTrack (trk : Int) : Frame := buildTrackControlFrame trk .stop 0 0x00

/-- R87 `stopTrack(trk)`. -/
def execStopTrack (trk : Int) (s : State) : Host.Outcome State Fault Refusal :=
  sinkWrite (frameStopTrack trk) s

/-- R88: `buildTrackControlFrame(trk, 0x02, 0, 0x00)` (the spec's decision D8, log 9). -/
def framePauseTrack (trk : Int) : Frame := buildTrackControlFrame trk .pause 0 0x00

/-- R88 `pauseTrack(trk)`. -/
def execPauseTrack (trk : Int) (s : State) : Host.Outcome State Fault Refusal :=
  sinkWrite (framePauseTrack trk) s

/-- R89: `buildTrackControlFrame(trk, 0x03, 0, 0x00)` (the spec's decision D8, log 9). -/
def frameResumeTrack (trk : Int) : Frame := buildTrackControlFrame trk .resume 0 0x00

/-- R89 `resumeTrack(trk)`. -/
def execResumeTrack (trk : Int) (s : State) : Host.Outcome State Fault Refusal :=
  sinkWrite (frameResumeTrack trk) s

/-- R90: `buildTrackControlFrame(trk, (if enable then 0x05 else 0x06), 0, 0x00)`. -/
def frameSetTrackLoop (trk : Int) (enable : Bool) : Frame :=
  buildTrackControlFrame trk (if enable then .loopOn else .loopOff) 0 0x00

/-- R90 `setTrackLoop(trk, true)`. -/
def execSetTrackLoopOn (trk : Int) (s : State) : Host.Outcome State Fault Refusal :=
  sinkWrite (frameSetTrackLoop trk true) s

/-- R90 `setTrackLoop(trk, false)`. -/
def execSetTrackLoopOff (trk : Int) (s : State) : Host.Outcome State Fault Refusal :=
  sinkWrite (frameSetTrackLoop trk false) s

end Sys2Proof.Machine
end

