-- ==== Sys2Proof/Machine/TrackLevel.lean ====
section
/-! DEFINITION. Track-level commands (spec file 45): setTrackGain, fadeTrack. -/

namespace Sys2Proof.Machine

/-- R93: `packFrame(0x08, splitLE16(trk) ++ splitLE16(gain))`. -/
def frameSetTrackGain (trk gain : Int) : Frame :=
  packFrame .trackVolume (splitLE16 trk ++ splitLE16 gain)

/-- R93 `setTrackGain(trk, gain)`. -/
def execSetTrackGain (trk gain : Int) (s : State) : Host.Outcome State Fault Refusal :=
  sinkWrite (frameSetTrackGain trk gain) s

/-- R94: `packFrame(0x0A, splitLE16(trk) ++ splitLE16(gain) ++ splitLE16(timeMs) ++
[boolByte(stopAtEnd)])`. -/
def frameFadeTrack (trk gain timeMs : Int) (stopAtEnd : Bool) : Frame :=
  packFrame .trackFade
    (splitLE16 trk ++ splitLE16 gain ++ splitLE16 timeMs ++ [boolByte stopAtEnd])

/-- R94 `fadeTrack(trk, gain, timeMs, stopAtEnd)`. -/
def execFadeTrack (trk gain timeMs : Int) (stopAtEnd : Bool) (s : State) :
    Host.Outcome State Fault Refusal :=
  sinkWrite (frameFadeTrack trk gain timeMs stopAtEnd) s

end Sys2Proof.Machine
end

