-- ==== Sys2Proof/Machine/Transport.lean ====
section
/-! DEFINITION. Transport initialization (spec file 41): `start`. -/

namespace Sys2Proof.Machine

/-- R80 `start()`: one `SinkInit(57600)`, whether or not one went before (R81, D16, log 11). -/
def execStart (s : State) : Host.Outcome State Fault Refusal := sinkInit bitRate s

end Sys2Proof.Machine
end

