-- ==== Sys2Proof/Machine/Dispatch.lean ====
section
/-! DEFINITION. One arm per row of spec/opcode_table.json, in the table's order. -/

namespace Sys2Proof.Machine

def exec (i : Instr) (s : State) : Host.Outcome State Fault Refusal :=
  match i with
  | .start => Sys2Proof.Machine.execStart s
  | .setMasterGain out gain => Sys2Proof.Machine.execSetMasterGain out gain s
  | .setSampleRateOffset out offset => Sys2Proof.Machine.execSetSampleRateOffset out offset s
  | .playTrackSolo trk out lock => Sys2Proof.Machine.execPlayTrackSolo trk out lock s
  | .playTrackPoly trk out lock => Sys2Proof.Machine.execPlayTrackPoly trk out lock s
  | .loadTrack trk out lock => Sys2Proof.Machine.execLoadTrack trk out lock s
  | .stopTrack trk => Sys2Proof.Machine.execStopTrack trk s
  | .pauseTrack trk => Sys2Proof.Machine.execPauseTrack trk s
  | .resumeTrack trk => Sys2Proof.Machine.execResumeTrack trk s
  | .setTrackLoopOn trk => Sys2Proof.Machine.execSetTrackLoopOn trk s
  | .setTrackLoopOff trk => Sys2Proof.Machine.execSetTrackLoopOff trk s
  | .stopAllTracks => Sys2Proof.Machine.execStopAllTracks s
  | .resumeAllInSync => Sys2Proof.Machine.execResumeAllInSync s
  | .setTrackGain trk gain => Sys2Proof.Machine.execSetTrackGain trk gain s
  | .fadeTrack trk gain timeMs stopAtEnd => Sys2Proof.Machine.execFadeTrack trk gain timeMs stopAtEnd s

end Sys2Proof.Machine
end

