-- ==== Sys2Proof/Machine/Port.lean ====
section
/-! DEFINITION. The command port (R67, D2): which instruction an item at the port stands for, and the
fetch of the next command. -/

namespace Sys2Proof.Machine

/-- R60, R67, R90: the table row of a command; `setTrackLoop` selects one of its two by `enable`. -/
def Cmd.toInstr : Cmd → Instr
  | .start => .start
  | .setMasterGain out gain => .setMasterGain out gain
  | .playTrackSolo trk out lock => .playTrackSolo trk out lock
  | .playTrackPoly trk out lock => .playTrackPoly trk out lock
  | .loadTrack trk out lock => .loadTrack trk out lock
  | .stopTrack trk => .stopTrack trk
  | .pauseTrack trk => .pauseTrack trk
  | .resumeTrack trk => .resumeTrack trk
  | .setTrackLoop trk true => .setTrackLoopOn trk
  | .setTrackLoop trk false => .setTrackLoopOff trk
  | .stopAllTracks => .stopAllTracks
  | .resumeAllInSync => .resumeAllInSync
  | .setTrackGain trk gain => .setTrackGain trk gain
  | .fadeTrack trk gain timeMs stopAtEnd => .fadeTrack trk gain timeMs stopAtEnd
  | .setSampleRateOffset out offset => .setSampleRateOffset out offset

/-- The instruction an item stands for. A command by value always is one (R65); a binary command word is
read through the parameter `map` (R67, D2, log 28); a table word is read by the decoder (log 2);
overlapping commands are refused (R44, R105, log 13). -/
def PortItem.command (map : CmdWordMap) : PortItem → Except Refusal Instr
  | .cmd c => .ok c.toInstr
  | .word w =>
    match map w with
    | some c => .ok c.toInstr
    | none => .error .unmappedCommandWord
  | .tableWord bytes =>
    match decode bytes with
    | .ok i => .ok i
    | .error e => .error (.badTableWord e)
  | .overlap _ _ => .error .overlappingCommands

/-- What the port gives a step. -/
inductive Fetched where
  /-- no command waits -/
  | idle
  /-- the next command, and the state with it taken from the port -/
  | command (i : Instr) (s : State)
  /-- the next item is refused -/
  | refused (r : Refusal)
deriving DecidableEq, Repr

/-- Take the next command from the port (R18: one after the other, none skipped or repeated); `map` is the
parameter of R67 and D2. -/
def fetch (map : CmdWordMap) (s : State) : Fetched :=
  match s.port with
  | [] => .idle
  | item :: rest =>
    match item.command map with
    | .ok i => .command i { s with port := rest }
    | .error r => .refused r

/-- The caller's next item is `item`, before anything already waiting. -/
def State.presentNext (s : State) (item : PortItem) : State := { s with port := item :: s.port }

end Sys2Proof.Machine
end

