-- ==== Sys2Proof/Machine/Step.lean ====
section
/-! DEFINITION. One step: the next command of the caller, executed whole (R38, R77). -/

namespace Sys2Proof.Machine

/-- One command is one atomic step (R38, R105, R110). With no command at the port nothing happens: the
block acts only on a command (R99), and a run has ended when its last one has returned (R121; log 15).
Binary command words go through the parameter `Config.cmdWordMap` (R67, D2, log 28). -/
def step (s : State) : Host.Outcome State Fault Refusal :=
  match fetch Config.cmdWordMap s with
  | .idle => .next s
  | .command i s' => exec i s'
  | .refused r => .refused r

/-- The state in which the next step fetches the table word `w` of `nbits` bits: the word is the next
item at the command port (logs 1, 2). The frame's byte 0 is the LOW 8 bits of `w`: DESIGN CHOICE
(log 27). -/
def State.withFetchWord (s : State) (nbits w : Nat) : State :=
  s.presentNext (.tableWord (wordBytes ((nbits + 7) / 8) w))

end Sys2Proof.Machine
end

