-- ==== Sys2Proof/Machine/Scratch.lean ====
section
/-! DEFINITION. The scratch buffer a frame command owns while it runs (R19, R33, R75), as a buffer that
is written byte by byte. The meanings use the frame value instead, as R19 and R33 allow (log 17); the
statement ScratchBufferBuildsTheFrame says that the two agree. -/

namespace Sys2Proof.Machine

/-- R19: a new buffer of `FRAME_LEN(opcode)` bytes, whose contents are unspecified (free values, I5). -/
def scratchNew (op : Opcode) : Frame := (List.range op.frameLen).map Config.scratchByte

/-- R33: `BufWrite(i, b)`, one byte wide. -/
def bufWrite (i : Nat) (b : Byte) (buf : Frame) : Frame := buf.set i b

/-- A sequence of `BufWrite`s, the first of the list first. -/
def bufWrites (ws : List (Nat × Byte)) (buf : Frame) : Frame :=
  ws.foldl (fun acc w => bufWrite w.1 w.2 acc) buf

/-- The index of every byte of a list whose first byte stands at index `i`. -/
def indexed : Nat → List Byte → List (Nat × Byte)
  | _, [] => []
  | i, b :: bs => (i, b) :: indexed (i + 1) bs

/-- R33, R47: the writes that build a frame: markers, length and opcode, then the body from index 4 on,
then the end marker at the last index. -/
def frameWrites (op : Opcode) (body : List Byte) : List (Nat × Byte) :=
  [(0, startMarker1), (1, startMarker2), (2, BitVec.ofNat 8 op.frameLen), (3, op.byte)] ++
    indexed 4 body ++ [(op.frameLen - 1, endMarker)]

end Sys2Proof.Machine
end

