-- ==== Sys2Proof/Machine/Text.lean ====
section
/-! DEFINITION. The written form of commands and programs (R68): "the operation name followed by its
arguments in parentheses in the source's parameter order", integers "decimal or `0x` hex literals,
optionally negative", booleans `true` and `false`; a program is a list of commands, one per line. What
R68 does not say of spaces, letter case of hex digits and empty lines is fixed here: DESIGN CHOICE
(log 24). -/

namespace Sys2Proof.Machine

/-- The character of a decimal digit. -/
def digitChar (d : Nat) : Char := Char.ofNat (48 + d)

/-- A natural number as a decimal literal. -/
def renderNat (n : Nat) : List Char :=
  if n = 0 then ['0'] else (Nat.digits 10 n).reverse.map digitChar

/-- An integer as a decimal literal, optionally negative. -/
def renderInt (v : Int) : List Char :=
  if v < 0 then '-' :: renderNat v.natAbs else renderNat v.natAbs

/-- A boolean literal. -/
def renderBool (b : Bool) : List Char := if b then "true".toList else "false".toList

/-- Arguments with a comma and a space between them. -/
def joinArgs : List (List Char) → List Char
  | [] => []
  | [a] => a
  | a :: b :: rest => a ++ [',', ' '] ++ joinArgs (b :: rest)

/-- `name(arg, ..., arg)`. -/
def renderCall (name : String) (args : List (List Char)) : List Char :=
  name.toList ++ ['('] ++ joinArgs args ++ [')']

/-- A command as the source writes it (R68). -/
def Cmd.render : Cmd → List Char
  | .start => renderCall "start" []
  | .setMasterGain out gain => renderCall "setMasterGain" [renderInt out, renderInt gain]
  | .playTrackSolo trk out lock =>
    renderCall "playTrackSolo" [renderInt trk, renderInt out, renderBool lock]
  | .playTrackPoly trk out lock =>
    renderCall "playTrackPoly" [renderInt trk, renderInt out, renderBool lock]
  | .loadTrack trk out lock =>
    renderCall "loadTrack" [renderInt trk, renderInt out, renderBool lock]
  | .stopTrack trk => renderCall "stopTrack" [renderInt trk]
  | .pauseTrack trk => renderCall "pauseTrack" [renderInt trk]
  | .resumeTrack trk => renderCall "resumeTrack" [renderInt trk]
  | .setTrackLoop trk enable => renderCall "setTrackLoop" [renderInt trk, renderBool enable]
  | .stopAllTracks => renderCall "stopAllTracks" []
  | .resumeAllInSync => renderCall "resumeAllInSync" []
  | .setTrackGain trk gain => renderCall "setTrackGain" [renderInt trk, renderInt gain]
  | .fadeTrack trk gain timeMs stopAtEnd =>
    renderCall "fadeTrack" [renderInt trk, renderInt gain, renderInt timeMs, renderBool stopAtEnd]
  | .setSampleRateOffset out offset =>
    renderCall "setSampleRateOffset" [renderInt out, renderInt offset]

/-- The value of a digit in a base up to 16, letters in either case. -/
def digitValue (base : Nat) (c : Char) : Option Nat :=
  let v :=
    if '0'.toNat ≤ c.toNat ∧ c.toNat ≤ '9'.toNat then c.toNat - 48
    else if 'a'.toNat ≤ c.toNat ∧ c.toNat ≤ 'f'.toNat then c.toNat - 87
    else if 'A'.toNat ≤ c.toNat ∧ c.toNat ≤ 'F'.toNat then c.toNat - 55
    else base
  if v < base then some v else none

/-- Digits after the value `acc` of those before them. -/
def readDigits (base : Nat) : List Char → Nat → Option Nat
  | [], acc => some acc
  | c :: cs, acc =>
    match digitValue base c with
    | some d => readDigits base cs (acc * base + d)
    | none => none

/-- An unsigned decimal or `0x` hex literal, at least one digit. -/
def readNat : List Char → Option Nat
  | [] => none
  | '0' :: 'x' :: c :: cs => readDigits 16 (c :: cs) 0
  | c :: cs => readDigits 10 (c :: cs) 0

/-- An integer literal, optionally negative. -/
def readInt : List Char → Option Int
  | '-' :: cs => (readNat cs).map (fun n => -(n : Int))
  | cs => (readNat cs).map (fun n => (n : Int))

/-- A boolean literal. -/
def readBool (cs : List Char) : Option Bool :=
  if cs = "true".toList then some true else if cs = "false".toList then some false else none

/-- The parts of a text between separators; `n` separators make `n + 1` parts. -/
def splitAtChar (sep : Char) : List Char → List (List Char)
  | [] => [[]]
  | c :: cs =>
    if c = sep then [] :: splitAtChar sep cs
    else
      match splitAtChar sep cs with
      | [] => [[c]]
      | p :: ps => (c :: p) :: ps

/-- A text without the spaces before and after it. -/
def trimSpaces (cs : List Char) : List Char :=
  ((cs.dropWhile (· == ' ')).reverse.dropWhile (· == ' ')).reverse

/-- The operation name and the argument texts of `name(arg, ..., arg)`. -/
def readCall (line : List Char) : Option (List Char × List (List Char)) :=
  let text := trimSpaces line
  match text.dropWhile (· != '(') with
  | [] => none
  | _ :: rest =>
    if rest.getLast? = some ')' then
      let inner := trimSpaces rest.dropLast
      some (trimSpaces (text.takeWhile (· != '(')),
        if inner = [] then [] else (splitAtChar ',' inner).map trimSpaces)
    else none

/-- An operation of two integers, from its argument texts. -/
def readIntInt (mk : Int → Int → Cmd) : List (List Char) → Option Cmd
  | [a, b] => (readInt a).bind fun x => (readInt b).map fun y => mk x y
  | _ => none

/-- An operation of one integer. -/
def readIntOnly (mk : Int → Cmd) : List (List Char) → Option Cmd
  | [a] => (readInt a).map mk
  | _ => none

/-- An operation of one integer and a boolean. -/
def readIntBool (mk : Int → Bool → Cmd) : List (List Char) → Option Cmd
  | [a, b] => (readInt a).bind fun x => (readBool b).map fun y => mk x y
  | _ => none

/-- An operation of two integers and a boolean. -/
def readIntIntBool (mk : Int → Int → Bool → Cmd) : List (List Char) → Option Cmd
  | [a, b, c] =>
    (readInt a).bind fun x => (readInt b).bind fun y => (readBool c).map fun z => mk x y z
  | _ => none

/-- An operation of three integers and a boolean. -/
def readIntIntIntBool (mk : Int → Int → Int → Bool → Cmd) : List (List Char) → Option Cmd
  | [a, b, c, d] =>
    (readInt a).bind fun x => (readInt b).bind fun y => (readInt c).bind fun z =>
      (readBool d).map fun w => mk x y z w
  | _ => none

/-- An operation without parameters. -/
def readNoArgs (c : Cmd) : List (List Char) → Option Cmd
  | [] => some c
  | _ => none

/-- The command an operation name and its argument texts stand for; `buildTrackControlFrame` is no
command, being internal to the block (R68). -/
def commandOf (name : List Char) (args : List (List Char)) : Option Cmd :=
  if name = "start".toList then readNoArgs .start args
  else if name = "setMasterGain".toList then readIntInt .setMasterGain args
  else if name = "playTrackSolo".toList then readIntIntBool .playTrackSolo args
  else if name = "playTrackPoly".toList then readIntIntBool .playTrackPoly args
  else if name = "loadTrack".toList then readIntIntBool .loadTrack args
  else if name = "stopTrack".toList then readIntOnly .stopTrack args
  else if name = "pauseTrack".toList then readIntOnly .pauseTrack args
  else if name = "resumeTrack".toList then readIntOnly .resumeTrack args
  else if name = "setTrackLoop".toList then readIntBool .setTrackLoop args
  else if name = "stopAllTracks".toList then readNoArgs .stopAllTracks args
  else if name = "resumeAllInSync".toList then readNoArgs .resumeAllInSync args
  else if name = "setTrackGain".toList then readIntInt .setTrackGain args
  else if name = "fadeTrack".toList then readIntIntIntBool .fadeTrack args
  else if name = "setSampleRateOffset".toList then readIntInt .setSampleRateOffset args
  else none

/-- The command a line of text stands for (R68). -/
def parseCommand (line : List Char) : Option Cmd :=
  match readCall line with
  | some (name, args) => commandOf name args
  | none => none

/-- The commands of the lines of a program, `none` where a line is no command; a line of nothing but
spaces is passed over. -/
def parseLines : List (List Char) → Option (List Cmd)
  | [] => some []
  | l :: ls =>
    if trimSpaces l = [] then parseLines ls
    else
      match parseCommand l with
      | some c => (parseLines ls).map (fun cs => c :: cs)
      | none => none

/-- R68: a program's text, one command a line, executed in order. -/
def parseProgram (text : List Char) : Option (List Cmd) := parseLines (splitAtChar '\n' text)

/-- R68: the text of a program. -/
def renderProgram : List Cmd → List Char
  | [] => []
  | c :: cs => c.render ++ '\n' :: renderProgram cs

end Sys2Proof.Machine
end

