-- ==== Sys2Proof/Machine/Timing.lean ====
section
/-! DEFINITION. The figures of R120. The model holds no time (R118, log 19) and no step uses these. -/

namespace Sys2Proof.Machine

/-- R120: the data bits a frame carries, 8 a byte. -/
def frameDataBits (f : Frame) : Nat := 8 * f.length

/-- R120: "with `c` bit times per byte an `n`-byte frame lasts `n * c / 57600` seconds". -/
def frameSeconds (c : Nat) (f : Frame) : Rat := (f.length * c : Nat) / (bitRate : Nat)

end Sys2Proof.Machine

namespace Sys2Proof

/-- The bit times a byte takes in a serial format: a start bit and the format's bits. PRESUMED
(log 21; for 8 data bits, no parity and 1 stop bit it is the 10 of G3). -/
def UartFraming.bitTimesPerByte (u : UartFraming) : Nat :=
  1 + u.dataBits + u.parityBits + u.stopBits

end Sys2Proof
end

