-- ==== Sys2Proof/Safety.lean ====
section
/-! DEFINITION. What claims are stated in: the spec's bit notation (R9) and the states its two common
steps name (R77, R80), legal events and the invariant of the encoder, and the premises the spec asks a
claim about the line to name (R98, R114). -/

namespace Sys2Proof

/-- R9: `v[7:0] = v mod 256`. -/
def bits7to0 (v : Int) : Byte := BitVec.ofNat 8 (v % 256).toNat

/-- R9: `v[15:8] = (v div 256) mod 256`. -/
def bits15to8 (v : Int) : Byte := BitVec.ofNat 8 (v / 256 % 256).toNat

/-- R57, R71: `out & 0x3 = out mod 4`. -/
def bits1to0 (v : Int) : Byte := BitVec.ofNat 8 (v % 4).toNat

/-- R72: a truth byte. -/
def truthByte (b : Bool) : Byte := if b then 0x01 else 0x00

/-- The request an instruction makes of the sink (R36, R80): the initialization for `start`, the write
of its frame for every other one. -/
def Instr.request : Instr → SinkRequest
  | .start => .init 57600
  | i => .write (encode i)

end Sys2Proof

namespace Sys2Proof.Machine

/-- R77, field by field: the state after a frame command whose frame is `f`. The caller's port is as
before; one answer of the sink is used up. -/
def afterWrite (f : Frame) (s : State) : State where
  enc :=
    { pos := s.enc.pos + 1
      hist := s.enc.hist ++ [.write f (s.sinkAnswer (.write f))]
      wireKnown := s.enc.wireKnown && decide (s.sinkAnswer (.write f) = .ok) }
  port := s.port
  returned := some (s.sinkAnswer (.write f))
  answers := s.answers.tail
  draws := s.draws + 1

/-- R80, field by field: the state after `start`. -/
def afterInit (s : State) : State where
  enc :=
    { pos := s.enc.pos + 1
      hist := s.enc.hist ++ [.init 57600 (s.sinkAnswer (.init 57600))]
      wireKnown := s.enc.wireKnown }
  port := s.port
  returned := some (s.sinkAnswer (.init 57600))
  answers := s.answers.tail
  draws := s.draws + 1

/-- The event that a request and its answer are recorded as (R20). -/
def eventOf : SinkRequest → SinkStatus → SinkEvent
  | .init rate, st => .init rate st
  | .write f, st => .write f st

/-- An event the encoder can have made: an initialization at 57600 (R80), or a write of a frame that is
an instance of a frame row of the opcode table (R36, R66). -/
def SinkEvent.legal : SinkEvent → Bool
  | .init rate _ => rate == 57600
  | .write f _ => f != [] && opcodeTable.any (fun r => r.isInstance f)

/-- R21: no write in the history has failed. -/
def noFailedWrite (hist : List SinkEvent) : Bool := hist.all (fun ev => !ev.isFailedWrite)

/-- The invariant every step keeps. -/
structure Inv (s : State) : Prop where
  /-- R18, R20, R43: one event per command that has returned -/
  pos_eq : s.enc.pos = s.enc.hist.length
  /-- R36, R66, R80: every event is one the encoder can make -/
  legal : ∀ ev ∈ s.enc.hist, ev.legal = true
  /-- R21: while the line is marked as known, no write has failed -/
  known : s.enc.wireKnown = true → noFailedWrite s.enc.hist = true
  /-- R96, R101: what was last returned is the status of the last event -/
  returned_eq : s.returned = s.enc.hist.getLast?.map SinkEvent.status

/-- R98: "a claim about the line may only be stated for histories with `wireKnown = true`". -/
def LineDetermined (s : State) : Prop := s.enc.wireKnown = true

/-- R114: "the first command is `start` and its status is `ok`", the premise of a claim about the
line. -/
def StartedOk (s : State) : Prop := s.enc.hist.head? = some (.init 57600 .ok)

/-- R68: a program at the command port, one command after another. -/
def programPort (cs : List Cmd) : List PortItem := cs.map .cmd

/-- The frames of a program's commands, in order; `start` has none (R60). -/
def frameCommands (cs : List Cmd) : List Instr := (cs.map Cmd.toInstr).filter (· != .start)

/-- A status with the sink's failure value replaced by `g` of it. -/
def renameStatus (g : SinkErr → SinkErr) : SinkStatus → SinkStatus
  | .ok => .ok
  | .err e => .err (g e)

/-- An event with the sink's failure value replaced by `g` of it. -/
def renameEvent (g : SinkErr → SinkErr) : SinkEvent → SinkEvent
  | .init rate st => .init rate (renameStatus g st)
  | .write f st => .write f (renameStatus g st)

/-- A state with every failure value replaced by `g` of it: in the history, in what was returned and
in the scheduled answers. -/
def renameState (g : SinkErr → SinkErr) (s : State) : State :=
  { s with
    enc := { s.enc with hist := s.enc.hist.map (renameEvent g) }
    returned := s.returned.map (renameStatus g)
    answers := s.answers.map (renameStatus g) }

end Sys2Proof.Machine
end

