-- ==== Sys2Proof/Certificates/Slice0/Obligations.lean ====
section
/-! DEFINITION. The statements about the model. `afterWrite` and `afterInit` (Safety.lean) spell out, field by
field, the next states of R77 and R80; `bits7to0`, `bits15to8`, `bits1to0` are R9's bit notation. A statement
that says "the model's choice" or "the spec's decision" names what it rests on. -/

open Sys2Proof Sys2Proof.Machine

/-! ### What each command does -/

/-- R80: `start()` issues one `SinkInit(57600)`, records it with the sink's answer, counts one command and
returns the answer. That `wireKnown` is unchanged whatever the answer is the spec's decision D16 (log 11). -/
def Obligations.StartResult : Prop :=
  ∀ s : State, exec .start s = .next (afterInit s)

/-- R82, whole: the frame `[F0, AA, 08, 05, out & 3, gain[7:0], gain[15:8], 55]` for every `out` and `gain`
(a negative `out` as R82's own corner cases have it, "`out = -1` sends 3"; log 6), no flag and no exception,
the status returned unmodified, and nothing else changed. -/
def Obligations.SetMasterGainResult : Prop :=
  ∀ (out gain : Int) (s : State), exec (.setMasterGain out gain) s =
    .next (afterWrite
      [0xF0, 0xAA, 0x08, 0x05, bits1to0 out, bits7to0 gain, bits15to8 gain, 0x55] s)

/-- R83, whole. -/
def Obligations.SetSampleRateOffsetResult : Prop :=
  ∀ (out offset : Int) (s : State), exec (.setSampleRateOffset out offset) s =
    .next (afterWrite
      [0xF0, 0xAA, 0x08, 0x0C, bits1to0 out, bits7to0 offset, bits15to8 offset, 0x55] s)

/-- R84, whole. -/
def Obligations.PlayTrackSoloResult : Prop :=
  ∀ (trk out : Int) (lock : Bool) (s : State), exec (.playTrackSolo trk out lock) s =
    .next (afterWrite [0xF0, 0xAA, 0x0A, 0x03, 0x00, bits7to0 trk, bits15to8 trk, bits1to0 out,
      truthByte lock, 0x55] s)

/-- R85; bytes 5 to 8 are the spec's decision D7 (log 8). -/
def Obligations.PlayTrackPolyResult : Prop :=
  ∀ (trk out : Int) (lock : Bool) (s : State), exec (.playTrackPoly trk out lock) s =
    .next (afterWrite [0xF0, 0xAA, 0x0A, 0x03, 0x01, bits7to0 trk, bits15to8 trk, bits1to0 out,
      truthByte lock, 0x55] s)

/-- R86; bytes 5 to 8 are the spec's decision D7 (log 8). -/
def Obligations.LoadTrackResult : Prop :=
  ∀ (trk out : Int) (lock : Bool) (s : State), exec (.loadTrack trk out lock) s =
    .next (afterWrite [0xF0, 0xAA, 0x0A, 0x03, 0x07, bits7to0 trk, bits15to8 trk, bits1to0 out,
      truthByte lock, 0x55] s)

/-- R87, whole. -/
def Obligations.StopTrackResult : Prop :=
  ∀ (trk : Int) (s : State), exec (.stopTrack trk) s =
    .next (afterWrite
      [0xF0, 0xAA, 0x0A, 0x03, 0x04, bits7to0 trk, bits15to8 trk, 0x00, 0x00, 0x55] s)

/-- R88; the channel and flags bytes are the spec's decision D8 (log 9). -/
def Obligations.PauseTrackResult : Prop :=
  ∀ (trk : Int) (s : State), exec (.pauseTrack trk) s =
    .next (afterWrite
      [0xF0, 0xAA, 0x0A, 0x03, 0x02, bits7to0 trk, bits15to8 trk, 0x00, 0x00, 0x55] s)

/-- R89; the channel and flags bytes are the spec's decision D8 (log 9). -/
def Obligations.ResumeTrackResult : Prop :=
  ∀ (trk : Int) (s : State), exec (.resumeTrack trk) s =
    .next (afterWrite
      [0xF0, 0xAA, 0x0A, 0x03, 0x03, bits7to0 trk, bits15to8 trk, 0x00, 0x00, 0x55] s)

/-- R90, whole: the command `setTrackLoop(trk, enable)` selects one of the table's two rows, and their frames
have the sub-code 05 and 06, every other byte the same. -/
def Obligations.SetTrackLoopResult : Prop :=
  ∀ (trk : Int) (s : State),
    exec (.setTrackLoopOn trk) s = .next (afterWrite
      [0xF0, 0xAA, 0x0A, 0x03, 0x05, bits7to0 trk, bits15to8 trk, 0x00, 0x00, 0x55] s) ∧
    exec (.setTrackLoopOff trk) s = .next (afterWrite
      [0xF0, 0xAA, 0x0A, 0x03, 0x06, bits7to0 trk, bits15to8 trk, 0x00, 0x00, 0x55] s) ∧
    ∀ enable : Bool, (Cmd.setTrackLoop trk enable).toInstr =
      if enable then .setTrackLoopOn trk else .setTrackLoopOff trk

/-- R91, whole. -/
def Obligations.StopAllTracksResult : Prop :=
  ∀ s : State, exec .stopAllTracks s = .next (afterWrite [0xF0, 0xAA, 0x05, 0x04, 0x55] s)

/-- R92, whole. -/
def Obligations.ResumeAllInSyncResult : Prop :=
  ∀ s : State, exec .resumeAllInSync s = .next (afterWrite [0xF0, 0xAA, 0x05, 0x0B, 0x55] s)

/-- R93, whole. -/
def Obligations.SetTrackGainResult : Prop :=
  ∀ (trk gain : Int) (s : State), exec (.setTrackGain trk gain) s =
    .next (afterWrite [0xF0, 0xAA, 0x09, 0x08, bits7to0 trk, bits15to8 trk, bits7to0 gain,
      bits15to8 gain, 0x55] s)

/-- R94, whole. -/
def Obligations.FadeTrackResult : Prop :=
  ∀ (trk gain timeMs : Int) (stopAtEnd : Bool) (s : State), exec (.fadeTrack trk gain timeMs stopAtEnd) s =
    .next (afterWrite [0xF0, 0xAA, 0x0C, 0x0A, bits7to0 trk, bits15to8 trk, bits7to0 gain,
      bits15to8 gain, bits7to0 timeMs, bits15to8 timeMs, truthByte stopAtEnd, 0x55] s)

/-! ### What every command does -/

/-- R77 (and R36): every frame command takes the common step with the frame its encoding gives. The frame of
the meaning is built by `packFrame`; `encode` is written apart from it, from the format tables. -/
def Obligations.FrameCommandsTakeTheCommonStep : Prop :=
  ∀ (i : Instr) (s : State), i ≠ .start → exec i s = .next (afterWrite (encode i) s)

/-- R95: the encoder raises no exception of its own and validates nothing. Every instruction with every
operand in every state answers a next state, and so does a step on every command at the port. -/
def Obligations.NoCommandFails : Prop :=
  (∀ (i : Instr) (s : State), ∃ t, exec i s = .next t) ∧
    ∀ (c : Cmd) (rest : List PortItem) (s : State), s.port = .cmd c :: rest →
      ∃ t, step s = .next t ∧ t.port = rest ∧ t.enc.pos = s.enc.pos + 1

/-- R96: whatever the sink answers to a command's one request is recorded and returned as it came: never
translated, never caught, never retried (one answer is used, one event is added). -/
def Obligations.SinkStatusReturnedUnmodified : Prop :=
  ∀ (i : Instr) (s : State), ∃ t, exec i s = .next t ∧
    t.returned = some (s.sinkAnswer i.request) ∧
    t.enc.hist = s.enc.hist ++ [eventOf i.request (s.sinkAnswer i.request)] ∧
    t.draws = s.draws + 1 ∧ t.answers = s.answers.tail

/-- R15: "the output of a command depends on that command's parameters alone (and its status on the sink's
answer)". In two states that may differ in everything else, a command whose request the sink answers alike
records the same event and returns the same status. -/
def Obligations.OutputDependsOnParametersAlone : Prop :=
  ∀ (i : Instr) (s₁ s₂ : State), s₁.sinkAnswer i.request = s₂.sinkAnswer i.request →
    ∃ t₁ t₂ ev, exec i s₁ = .next t₁ ∧ exec i s₂ = .next t₂ ∧
      t₁.enc.hist = s₁.enc.hist ++ [ev] ∧ t₂.enc.hist = s₂.enc.hist ++ [ev] ∧
      t₁.returned = t₂.returned

/-- R97, R98 (the spec's decision D13, log 10): a failing command records its cause as the last event, at
index `pos` of the history where the history has one event per command; the wire gains no byte; a failed
write leaves `wireKnown` false, a failed `start` leaves it as it was (D16, log 11). -/
def Obligations.SinkFailureEffect : Prop :=
  ∀ (i : Instr) (s : State) (e : SinkErr), s.sinkAnswer i.request = .err e →
    ∃ t, exec i s = .next t ∧ t.enc.hist = s.enc.hist ++ [eventOf i.request (.err e)] ∧
      (eventOf i.request (.err e)).sinkFailure = some e ∧ t.returned = some (.err e) ∧
      (s.enc.pos = s.enc.hist.length → t.enc.hist[s.enc.pos]? = some (eventOf i.request (.err e))) ∧
      wire t.enc.hist = wire s.enc.hist ∧
      t.enc.wireKnown = (if i = .start then s.enc.wireKnown else false) ∧ t.enc.pos = s.enc.pos + 1

/-- R21: an accepted frame goes to the end of the wire, byte for byte; an accepted `start` adds none
(D16, log 11); `wireKnown` stays as it was (decision D13, log 10). -/
def Obligations.AcceptedFrameExtendsWire : Prop :=
  ∀ (i : Instr) (s : State), s.sinkAnswer i.request = .ok →
    ∃ t, exec i s = .next t ∧ wire t.enc.hist = wire s.enc.hist ++ encode i ∧
      t.enc.wireKnown = s.enc.wireKnown

/-- R39 (derived by the spec): a command issued twice appends its request twice. -/
def Obligations.CommandIssuedTwiceAppendsTwice : Prop :=
  ∀ (i : Instr) (s : State), ∃ t u, exec i s = .next t ∧ exec i t = .next u ∧
    u.enc.hist = s.enc.hist ++
      [eventOf i.request (s.sinkAnswer i.request), eventOf i.request (t.sinkAnswer i.request)] ∧
    (s.sinkAnswer i.request = .ok → t.sinkAnswer i.request = .ok →
      wire u.enc.hist = wire s.enc.hist ++ encode i ++ encode i)

/-- R20, R96 (the spec's decision D12, log 4): the sink's failure value is opaque to the encoder. Renaming
every failure value before a command, or after it, gives the same state, for every renaming, one that merges
values among them, where the answer to the command is a scheduled one. -/
def Obligations.FailureValuesAreOpaque : Prop :=
  ∀ (g : SinkErr → SinkErr) (i : Instr) (s : State), s.answers ≠ [] →
    ∃ t, exec i s = .next t ∧ exec i (renameState g s) = .next (renameState g t)

/-- R7, D3 (log 5): "no encoding depends on" the width of the caller's `int`. Narrowing every operand to `n`
bits, for any `n` of at least 16, changes nothing. -/
def Obligations.HostIntWidthIsIrrelevant : Prop :=
  ∀ (n : Nat) (i : Instr) (s : State), 16 ≤ n → exec (i.narrow n) s = exec i s

/-! ### Frames -/

/-- R47: every frame a command hands to the sink has both start markers, its own byte count as the length
field, one of the seven opcodes, and the end marker as its last byte. -/
def Obligations.EveryFrameHasTheEnvelope : Prop :=
  ∀ (i : Instr) (s : State), i ≠ .start → ∃ f st t, exec i s = .next t ∧
    t.enc.hist = s.enc.hist ++ [.write f st] ∧
    f[0]? = some 0xF0 ∧ f[1]? = some 0xAA ∧ f[2]? = some (BitVec.ofNat 8 f.length) ∧
    (∃ op : Opcode, f[3]? = some op.byte ∧ f.length = op.frameLen) ∧
    f[f.length - 1]? = some 0x55

/-- R48: the length is the constant of the opcode: byte 2 of a frame, read as a number, counts all its bytes,
and is 10, 5, 8, 9, 12, 5, 8 for the opcodes 3, 4, 5, 8, 10, 11, 12. -/
def Obligations.LengthIsAConstantOfTheOpcode : Prop :=
  ∀ (i : Instr) (s : State), i ≠ .start → ∃ f st t len op, exec i s = .next t ∧
    t.enc.hist = s.enc.hist ++ [.write f st] ∧ f[2]? = some len ∧ f[3]? = some op ∧
    len.toNat = f.length ∧
    (op.toNat, f.length) ∈ [(3, 10), (4, 5), (5, 8), (8, 9), (10, 12), (11, 5), (12, 8)]

/-- R49, R50: the byte values of the seven opcodes and the eight sub-codes. -/
def Obligations.OpcodeAndSubCodeValues : Prop :=
  (Opcode.trackControl.byte.toNat = 3 ∧ Opcode.stopAll.byte.toNat = 4 ∧
    Opcode.masterVolume.byte.toNat = 5 ∧ Opcode.trackVolume.byte.toNat = 8 ∧
    Opcode.trackFade.byte.toNat = 10 ∧ Opcode.resumeAllSync.byte.toNat = 11 ∧
    Opcode.sampleRateOffset.byte.toNat = 12) ∧
  (SubCode.playSolo.byte.toNat = 0 ∧ SubCode.playPoly.byte.toNat = 1 ∧
    SubCode.pause.byte.toNat = 2 ∧ SubCode.resume.byte.toNat = 3 ∧ SubCode.stop.byte.toNat = 4 ∧
    SubCode.loopOn.byte.toNat = 5 ∧ SubCode.loopOff.byte.toNat = 6 ∧ SubCode.load.byte.toNat = 7)

/-- R74: `packFrame` puts the markers, the constant length and the opcode around a body, and every frame a
command hands to the sink is a `packFrame` of a body with `len(body) + 5 = FRAME_LEN(op)`, so that its length
is the byte at index 2. -/
def Obligations.PackFrameLaw : Prop :=
  (∀ (op : Opcode) (body : List Byte), packFrame op body =
    [0xF0, 0xAA, BitVec.ofNat 8 op.frameLen, op.byte] ++ body ++ [0x55]) ∧
  ∀ i : Instr, i ≠ .start → ∃ op body, body.length + 5 = op.frameLen ∧
    i.request = .write (packFrame op body) ∧ (packFrame op body).length = op.frameLen ∧
    (packFrame op body)[2]? = some (BitVec.ofNat 8 (packFrame op body).length) ∧
    ∀ s, exec i s = .next (afterWrite (packFrame op body) s)

/-- R76: the shared routine's ten bytes, and every command whose frame has the opcode TRACK_CONTROL is built
by it. -/
def Obligations.TrackControlFramesShareOneRoutine : Prop :=
  (∀ (track : Int) (sub : SubCode) (out : Int) (flags : Byte),
    buildTrackControlFrame track sub out flags =
      [0xF0, 0xAA, 0x0A, 0x03, sub.byte, bits7to0 track, bits15to8 track, bits1to0 out, flags,
        0x55]) ∧
  ∀ i : Instr, (encode i)[3]? = some 0x03 → ∃ track sub out flags,
    i.request = .write (buildTrackControlFrame track sub out flags) ∧
    ∀ s, exec i s = .next (afterWrite (buildTrackControlFrame track sub out flags) s)

/-- R64 (the spec's decision D20): no frame a command hands to the sink has any other opcode, sub-code,
channel, flags or stop-at-end value than those listed. -/
def Obligations.ReservedValuesAreNeverSent : Prop :=
  ∀ (i : Instr) (s : State), i ≠ .start → ∃ f st t op, exec i s = .next t ∧
    t.enc.hist = s.enc.hist ++ [.write f st] ∧ f[3]? = some op ∧
    op.toNat ∈ [3, 4, 5, 8, 10, 11, 12] ∧
    (op.toNat = 3 → ∃ sub c fl, f[4]? = some sub ∧ f[7]? = some c ∧ f[8]? = some fl ∧
      sub.toNat ≤ 7 ∧ c.toNat ≤ 3 ∧ fl.toNat ≤ 1) ∧
    (op.toNat = 5 ∨ op.toNat = 12 → ∃ c, f[4]? = some c ∧ c.toNat ≤ 3) ∧
    (op.toNat = 10 → ∃ b, f[10]? = some b ∧ b.toNat ≤ 1)

/-- R31, R79: splitting any integer into its two bytes and joining them as `low | (high << 8)` recovers
`v mod 65536`. (The signed reading of R79, which the spec derives, is SignedReadingOfAField.) -/
def Obligations.SixteenBitFieldRoundTrip : Prop :=
  ∀ v : Int, ((lo8 v).toNat ||| ((hi8 v).toNat <<< 8) : Nat) = (v % 65536).toNat ∧
    splitLE16 v = [lo8 v, hi8 v] ∧ joinLE16 (lo8 v) (hi8 v) = (v % 65536).toNat

/-- R79 (derived by the spec): a reader of a gain or offset pair takes back every value -32768..32767, and of
any other value the one that differs from it by a multiple of 65536. -/
def Obligations.SignedReadingOfAField : Prop :=
  ∀ v : Int, (-32768 ≤ v → v ≤ 32767 → readS16 (lo8 v) (hi8 v) = v) ∧
    -32768 ≤ readS16 (lo8 v) (hi8 v) ∧ readS16 (lo8 v) (hi8 v) ≤ 32767 ∧
    (readS16 (lo8 v) (hi8 v) - v) % 65536 = 0

/-- R71 (for a negative `out` the spec's decision D4, log 6): the channel byte is the AND with 3 of the
two's-complement representation of `out` at any width of at least 2 bits, and is `out mod 4`. -/
def Obligations.ChannelByteIsTheMask : Prop :=
  ∀ (out : Int) (n : Nat), 2 ≤ n →
    (chan out).toNat = (BitVec.ofInt n out &&& BitVec.ofNat n 3).toNat ∧
    ((chan out).toNat : Int) = out % 4 ∧ (chan out).toNat < 4

/-- R69 (two equalities the spec derives): both bytes of a field depend on the value modulo 65536 only. -/
def Obligations.FieldBytesDependOnLow16Bits : Prop :=
  ∀ v w : Int, lo8 v = lo8 (v % 65536) ∧ hi8 v = hi8 (v % 65536) ∧
    (splitLE16 v = splitLE16 w ↔ v % 65536 = w % 65536)

/-- R33, R75 (derived by the spec; log 17): a scratch buffer of the frame's length, whatever it holds at
first, into which every byte of the frame is written once, in ANY order, ends as the frame value. -/
def Obligations.ScratchBufferBuildsTheFrame : Prop :=
  ∀ (op : Opcode) (body buf : List Byte) (ws : List (Nat × Byte)),
    body.length + 5 = op.frameLen → buf.length = op.frameLen → ws.Perm (frameWrites op body) →
    bufWrites ws buf = packFrame op body

/-- R120: a frame carries 40 to 96 data bits, 8 for each of its bytes. -/
def Obligations.FrameDataBitsRange : Prop :=
  ∀ i : Instr, i ≠ .start → 40 ≤ frameDataBits (encode i) ∧ frameDataBits (encode i) ≤ 96 ∧
    frameDataBits (encode i) = 8 * (encode i).length

/-! ### Encoding -/

/-- Decode and encode agree: for every well-formed instruction the decoder reads back from its words exactly
it, with every operand. The words are the frames of R51 to R55; that `start` has the empty word and that a frame
stands for its command is the model's choice (log 2), and so is the reader's sign of the fade time (log 18). -/
def Obligations.DecodeOfEncode : Prop :=
  ∀ i : Instr, i.wellFormed = true → decode (encode i) = .ok i

/-- The other direction: what decodes has no other words, and is well formed. That a frame, and the empty word,
stand for a command is the model's choice (log 2); that a decoded fade time is well formed rests on the model's
choice to read it as unsigned (log 18). -/
def Obligations.EncodeOfDecode : Prop :=
  ∀ (f : Frame) (i : Instr), decode f = .ok i → encode i = f ∧ i.wellFormed = true

/-- R63, R65: of any instruction at all the decoder reads back its reduced form (channel modulo 4, fields
modulo 65536), which is well formed and has the same frame. That a frame, and the empty word, stand for a command
is the model's choice (log 2), and so is the sign of a fade time in the reduced form (log 18). -/
def Obligations.DecodeOfEncodeReduces : Prop :=
  ∀ i : Instr, decode (encode i) = .ok i.canon ∧ i.canon.wellFormed = true ∧
    encode i.canon = encode i ∧ (i.wellFormed = true → i.canon = i)

/-- R63 (derived by the spec): two commands have the same frame exactly when their reduced forms are the
same; in particular they are then the same operation. -/
def Obligations.SameFrameIffSameReducedCommand : Prop :=
  ∀ i j : Instr, (encode i = encode j ↔ i.canon = j.canon) ∧ (encode i = encode j → i.row = j.row)

/-- R66: the frame of an instruction is an instance of its own row of spec/opcode_table.json and of no
other, `start`, whose pattern is empty, included. -/
def Obligations.FrameIsInstanceOfItsRowOnly : Prop :=
  ∀ (i : Instr) (r : Row), r ∈ opcodeTable → (r.isInstance (encode i) = true ↔ r = i.row)

/-- R66: the decoder, which reads field by field, accepts exactly the words that are an instance of a row of
the table, and gives an instruction of that row. That the words of the table, the empty word of `start` among
them, stand for commands is the model's choice (log 2). -/
def Obligations.DecoderAcceptsExactlyTheTable : Prop :=
  ∀ f : Frame, ((∃ i, decode f = .ok i) ↔ ∃ r ∈ opcodeTable, r.isInstance f = true) ∧
    ∀ i, decode f = .ok i → i.row ∈ opcodeTable ∧ i.row.isInstance f = true

/-- A few words written out from the spec's encodings decode to what they stand for. That a frame stands for its
command, and the empty word for `start`, is the model's choice (log 2). -/
def Obligations.SpecWordsDecode : Prop :=
  decode [] = .ok .start ∧
  decode [0xF0, 0xAA, 0x08, 0x05, 0x01, 0xF6, 0xFF, 0x55] = .ok (.setMasterGain 1 (-10)) ∧
  decode [0xF0, 0xAA, 0x0A, 0x03, 0x00, 0x2C, 0x01, 0x02, 0x01, 0x55] =
    .ok (.playTrackSolo 300 2 true) ∧
  decode [0xF0, 0xAA, 0x05, 0x04, 0x55] = .ok .stopAllTracks ∧
  decode [0xF0, 0xAA, 0x09, 0x08, 0x2C, 0x01, 0xFA, 0xFF, 0x55] = .ok (.setTrackGain 300 (-6)) ∧
  decode [0xF0, 0xAA, 0x0C, 0x0A, 0x05, 0x00, 0x32, 0x00, 0xD0, 0x07, 0x01, 0x55] =
    .ok (.fadeTrack 5 50 2000 true)

/-- R61, R62: a reader that delimits frames by their length fields takes any sequence of commands' frames
apart into exactly those frames, whatever their bodies hold (there is no escaping and no checksum), and reads
back the reduced commands. In those a fade time is read as unsigned: the model's choice (log 18). -/
def Obligations.WireIsReadByItsLengthFields : Prop :=
  ∀ l : List Instr, (∀ i ∈ l, i ≠ .start) →
    wireFrames (l.map encode).flatten = some (l.map encode) ∧
      readWire (l.map encode).flatten = some (l.map Instr.canon)

/-! ### Steps, runs and invariants -/

/-- A step runs the command at the port: a command by value, or the instruction that a table word decodes to
(that the port takes table words is the model's choice, log 2). The step takes the item from the port and is
otherwise exec of the instruction. The same through the host's two names for a table word given as a number, whose
byte order is the model's choice too (log 27). -/
def Obligations.StepRunsTheDecodedCommand : Prop :=
  (∀ (s : State) (c : Cmd) (rest : List PortItem), s.port = .cmd c :: rest →
    step s = exec c.toInstr { s with port := rest }) ∧
  (∀ (s : State) (f : Frame) (i : Instr) (rest : List PortItem), s.port = .tableWord f :: rest →
    decode f = .ok i → step s = exec i { s with port := rest }) ∧
  ∀ (s : State) (nbits w : Nat) (i : Instr), decodeTableWord nbits w = some i →
    step (s.withFetchWord nbits w) = exec i s

/-- R67, D2 (log 28): a binary command word is read through the word-to-command map, a parameter. For EVERY map
the port gives the command that the map gives the word and refuses a word it gives none; and a step does so with
the machine's own map, of which nothing is known. -/
def Obligations.CommandWordsGoThroughTheMapParameter : Prop :=
  (∀ (map : CmdWordMap) (s : State) (w : CmdWord) (rest : List PortItem), s.port = .word w :: rest →
    (∀ c, map w = some c → fetch map s = .command c.toInstr { s with port := rest }) ∧
    (map w = none → fetch map s = .refused .unmappedCommandWord)) ∧
  ∀ (s : State) (w : CmdWord) (rest : List PortItem), s.port = .word w :: rest →
    step s = match Config.cmdWordMap w with
      | some c => exec c.toInstr { s with port := rest }
      | none => .refused .unmappedCommandWord

/-- The model's choice (log 15): with no command at the port a step changes nothing. -/
def Obligations.NothingHappensWithoutACommand : Prop :=
  ∀ s : State, s.port = [] → step s = .next s

/-- R64, I9 (logs 2, 23): a table word that is an instance of no row is refused, and by no other cause is a
table word refused. -/
def Obligations.WordsOutsideTheTableAreRefused : Prop :=
  ∀ (s : State) (f : Frame) (rest : List PortItem), s.port = .tableWord f :: rest →
    ((∃ e, step s = .refused (.badTableWord e)) ↔ ∀ r ∈ opcodeTable, r.isInstance f = false) ∧
    ((∃ t, step s = .next t) ↔ ∃ r ∈ opcodeTable, r.isInstance f = true)

/-- R44 (the spec's decision D15, log 13): overlapping commands are refused. -/
def Obligations.OverlappingCommandsAreRefused : Prop :=
  ∀ (s : State) (a b : Cmd) (rest : List PortItem), s.port = .overlap a b :: rest →
    step s = .refused .overlappingCommands

/-- R28 (the spec's decision D17, log 12; the model's own fields: logs 1, 3, 16): the reset state. -/
def Obligations.ResetValues : Prop :=
  State.reset.enc.pos = 0 ∧ State.reset.enc.hist = [] ∧ State.reset.enc.wireKnown = true ∧
    wire State.reset.enc.hist = [] ∧ State.reset.port = [] ∧ State.reset.returned = none

/-- R110 (the spec's decision D17, log 14): a reset while the sink transmits leaves the line unknown, and the
encoder otherwise as after reset. -/
def Obligations.ResetWhileTransmitting : Prop :=
  State.resetMidTransmission.enc.wireKnown = false ∧ State.resetMidTransmission.enc.pos = 0 ∧
    State.resetMidTransmission.enc.hist = [] ∧ ¬ LineDetermined State.resetMidTransmission

/-- The invariant holds after reset, and after a reset while the sink transmits. -/
def Obligations.InvariantHoldsAtReset : Prop :=
  Inv State.reset ∧ Inv State.resetMidTransmission

/-- Every step keeps the invariant, from every state that has it: one event per returned command (R18, R43),
every event one the encoder can make (R36, R80), no failed write while the line is marked as known (R21), and
the last status returned is the last event's (R96). -/
def Obligations.EveryStepKeepsTheInvariant : Prop :=
  ∀ s t : State, Inv s → step s = .next t → Inv t

/-- R21 (the spec's decision D13, log 10): `wireKnown` says exactly whether it was true at the start and no
write has failed since; and through any run it never returns to true. -/
def Obligations.LineMarkIsExactAndSticky : Prop :=
  (∀ (k : Bool) (s t : State), s.enc.wireKnown = (k && noFailedWrite s.enc.hist) →
    step s = .next t → t.enc.wireKnown = (k && noFailedWrite t.enc.hist)) ∧
  ∀ (n : Nat) (s t : State), core.run n s = .next t → s.enc.wireKnown = false →
    t.enc.wireKnown = false

/-- R43 (derived by the spec): through any run the history only grows at its end, by one event for each
command that returned. -/
def Obligations.HistoryGrowsOneEventPerCommand : Prop :=
  ∀ (n : Nat) (s t : State), core.run n s = .next t →
    ∃ evs : List SinkEvent, t.enc.hist = s.enc.hist ++ evs ∧ t.enc.pos = s.enc.pos + evs.length ∧
      evs.length ≤ n ∧ s.port.length = t.port.length + evs.length

/-- R121 (the spec's decision D11, log 26): a run of a program, from any state whose port holds it, ends with
every command returned: `pos` grown by their number, and the history by one event for each, in order, with the
request that command makes and, where the sink's answers are scheduled, the status scheduled for it. That further
steps, with no command at the port, change nothing is the model's choice (log 15). -/
def Obligations.RunOfAProgram : Prop :=
  ∀ (cs : List Cmd) (s : State), s.port = programPort cs →
    ∃ t evs, core.run cs.length s = .next t ∧ t.port = [] ∧ t.enc.pos = s.enc.pos + cs.length ∧
      t.enc.hist = s.enc.hist ++ evs ∧
      evs.map SinkEvent.request = cs.map (fun c => c.toInstr.request) ∧
      (cs.length ≤ s.answers.length →
        evs.map SinkEvent.status = s.answers.take cs.length ∧
          t.answers = s.answers.drop cs.length) ∧
      ∀ k, core.run (cs.length + k) s = .next t

/-- R21, R61, R121: after a program all of whose requests the sink accepts, by scheduled answers or by free draws,
what a reader of the new bytes of the wire reads by their length fields is exactly the program's frame commands, in
order and reduced; and the line is as determined as it was. In the reduced commands a fade time is read as unsigned:
the model's choice (log 18). The last clause says that a schedule of `ok`s is one way to be accepted. -/
def Obligations.AcceptedProgramIsReadFromTheWire : Prop :=
  ∀ (cs : List Cmd) (s : State), s.port = programPort cs →
    ∃ t evs, core.run cs.length s = .next t ∧ t.enc.hist = s.enc.hist ++ evs ∧
      ((∀ ev ∈ evs, ev.status = .ok) → ∃ w, wire t.enc.hist = wire s.enc.hist ++ w ∧
        readWire w = some ((frameCommands cs).map Instr.canon) ∧
        t.enc.wireKnown = s.enc.wireKnown) ∧
      (s.answers.take cs.length = List.replicate cs.length .ok → ∀ ev ∈ evs, ev.status = .ok)

/-- R114: a first command `start` that the sink accepts establishes the premise of a claim about the line,
"the first command is `start` and its status is `ok`", and no run loses it. -/
def Obligations.AcceptedStartEstablishesThePremise : Prop :=
  (∀ (s : State) (rest : List PortItem), s.enc.hist = [] → s.port = .cmd .start :: rest →
    s.sinkAnswer (.init 57600) = .ok → ∃ t, step s = .next t ∧ StartedOk t) ∧
  ∀ (n : Nat) (s t : State), StartedOk s → core.run n s = .next t → StartedOk t

/-! ### The written form of commands -/

/-- R60, R66, R68: the row of spec/opcode_table.json that a command selects has the command's own name, the
name before the parenthesis of its written form (`setTrackLoop` with its rows' suffix left off). -/
def Obligations.CommandSelectsTheRowOfItsName : Prop :=
  ∀ c : Cmd, c.toInstr.row.mnemonic.toList.takeWhile (· != '.') = c.render.takeWhile (· != '(')

/-- R68 (decimal literals, one space after a comma: log 24): reading what is written for a command gives the
command back, for every operation and every operand. -/
def Obligations.CommandTextRoundTrip : Prop :=
  ∀ c : Cmd, parseCommand c.render = some c

/-- R68 (log 24): reading the text of a program, one command a line, gives its commands in order. -/
def Obligations.ProgramTextRoundTrip : Prop :=
  ∀ cs : List Cmd, parseProgram (renderProgram cs) = some cs
end

