-- ==== Sys2Proof/Laws/Operands.lean ====
section
/-! SUPPORT. What the operand forms compute, as numbers: the lemmas a proof about a frame's bytes cites
instead of unfolding them. -/

namespace Sys2Proof.Machine

theorem lo8_toNat (v : Int) : (lo8 v).toNat = (v % 256).toNat := by
  simp [lo8, BitVec.toNat_ofInt]

theorem hi8_eq_ofInt_div (v : Int) : hi8 v = BitVec.ofInt 8 (v / 256) := by
  rw [hi8, Int.shiftRight_eq_div_pow]
  rfl

theorem hi8_toNat (v : Int) : (hi8 v).toNat = (v / 256 % 256).toNat := by
  simp [hi8_eq_ofInt_div, BitVec.toNat_ofInt]

theorem chan_toNat (out : Int) : (chan out).toNat = (out % 4).toNat := by
  rw [chan, BitVec.toNat_ofInt]
  omega

theorem boolByte_toNat (b : Bool) : (boolByte b).toNat = b.toNat := by cases b <;> rfl

theorem lockFlags_eq (b : Bool) : lockFlags b = boolByte b := rfl

theorem packFrame_length (op : Opcode) (body : List Byte) :
    (packFrame op body).length = body.length + 5 := by
  simp [packFrame]

end Sys2Proof.Machine
end

