-- ==== Sys2Proof/Laws/Decode.lean ====
section
/-! SUPPORT. What each part of the decoder has accepted when it gives an instruction, so that no proof
unfolds it again, and what a reader's field values are as numbers. -/

namespace Sys2Proof

open Machine

theorem joinLE16_eq_add (lo hi : Byte) : joinLE16 lo hi = lo.toNat + 256 * hi.toNat := by
  rw [joinLE16, Nat.or_comm, Nat.shiftLeft_eq, Nat.mul_comm,
    ← Nat.two_pow_add_eq_or_of_lt (i := 8) lo.isLt, Nat.add_comm]

theorem joinLE16_lt (lo hi : Byte) : joinLE16 lo hi < 65536 := by
  have := lo.isLt
  have := hi.isLt
  rw [joinLE16_eq_add]
  omega

theorem decodeF5_ok {j i : Instr} {rest : Frame} (h : decodeF5 j rest = .ok i) :
    rest = [Machine.endMarker] ∧ i = j := by
  unfold decodeF5 at h
  split at h
  · split at h <;> simp_all
  · cases h

theorem decodeF8_ok {mk : Int → Int → Instr} {i : Instr} {rest : Frame}
    (h : decodeF8 mk rest = .ok i) :
    ∃ c lo hi, rest = [c, lo, hi, Machine.endMarker] ∧ c &&& 0xFC = 0 ∧
      i = mk c.toNat (readS16 lo hi) := by
  unfold decodeF8 at h
  split at h
  · split at h <;> simp_all
    split at h <;> simp_all
  · cases h

theorem decodeF9_ok {i : Instr} {rest : Frame} (h : decodeF9 rest = .ok i) :
    ∃ tl th gl gh, rest = [tl, th, gl, gh, Machine.endMarker] ∧
      i = .setTrackGain (readU16 tl th) (readS16 gl gh) := by
  unfold decodeF9 at h
  split at h
  · split at h <;> simp_all
  · cases h

theorem decodeF12_ok {i : Instr} {rest : Frame} (h : decodeF12 rest = .ok i) :
    ∃ tl th gl gh ml mh b, rest = [tl, th, gl, gh, ml, mh, b, Machine.endMarker] ∧
      b &&& 0xFE = 0 ∧
      i = .fadeTrack (readU16 tl th) (readS16 gl gh) (readU16 ml mh) (b == 0x01) := by
  unfold decodeF12 at h
  split at h
  · split at h <;> simp_all
    split at h <;> simp_all
  · cases h

theorem decodeF10_ok {i : Instr} {rest : Frame} (h : decodeF10 rest = .ok i) :
    ∃ sub tl th c fl, rest = [sub, tl, th, c, fl, Machine.endMarker] ∧
      decodeSubCode sub (readU16 tl th) c fl = .ok i := by
  unfold decodeF10 at h
  split at h
  · split at h <;> simp_all
  · cases h

theorem decodeRouted_ok {mk : Int → Int → Bool → Instr} {trk : Int} {c fl : Byte} {i : Instr}
    (h : decodeRouted mk trk c fl = .ok i) :
    c &&& 0xFC = 0 ∧ fl &&& 0xFE = 0 ∧ i = mk trk c.toNat (fl == 0x01) := by
  unfold decodeRouted at h
  split at h
  · cases h
  · split at h <;> simp_all

theorem decodeUnrouted_ok {mk : Int → Instr} {trk : Int} {c fl : Byte} {i : Instr}
    (h : decodeUnrouted mk trk c fl = .ok i) : c = 0 ∧ fl = 0 ∧ i = mk trk := by
  unfold decodeUnrouted at h
  split at h
  · cases h
  · split at h <;> simp_all

/-- What the decoder has accepted: the empty word, or an envelope with its length and an opcode. -/
theorem decode_ok {f : Frame} {i : Instr} (h : decode f = .ok i) :
    (f = [] ∧ i = .start) ∨
      ∃ len op rest, f = startMarker1 :: startMarker2 :: len :: op :: rest ∧
        len.toNat = f.length ∧ decodeOpcode op rest = .ok i := by
  unfold decode at h
  split at h
  · cases h
    exact .inl ⟨rfl, rfl⟩
  · split at h
    · cases h
    · split at h
      · cases h
      · rename_i len op rest _ _
        exact .inr ⟨len, op, rest, by simp_all, by simp_all, h⟩
  · cases h

end Sys2Proof
end

