-- ==== Sys2Proof/Laws/State.lean ====
section
/-! SUPPORT. One lemma per field per update of State, each true by rfl. -/

namespace Sys2Proof.Machine

section settle
variable (s : State) (r : EncState × SinkStatus)

@[simp] theorem settle_enc : (s.settle r).enc = r.1 := rfl
@[simp] theorem settle_port : (s.settle r).port = s.port := rfl
@[simp] theorem settle_returned : (s.settle r).returned = some r.2 := rfl
@[simp] theorem settle_answers : (s.settle r).answers = s.answers.tail := rfl
@[simp] theorem settle_draws : (s.settle r).draws = s.draws + 1 := rfl

end settle

section common
variable (f : Frame) (rate : Nat) (e : EncState) (st : SinkStatus)

@[simp] theorem stepFrame_pos : (stepFrame f e st).1.pos = e.pos + 1 := rfl
@[simp] theorem stepFrame_hist : (stepFrame f e st).1.hist = e.hist ++ [.write f st] := rfl
@[simp] theorem stepFrame_wireKnown :
    (stepFrame f e st).1.wireKnown = (e.wireKnown && (st == .ok)) := rfl
@[simp] theorem stepFrame_status : (stepFrame f e st).2 = st := rfl
@[simp] theorem stepStart_pos : (stepStart rate e st).1.pos = e.pos + 1 := rfl
@[simp] theorem stepStart_hist : (stepStart rate e st).1.hist = e.hist ++ [.init rate st] := rfl
@[simp] theorem stepStart_wireKnown : (stepStart rate e st).1.wireKnown = e.wireKnown := rfl
@[simp] theorem stepStart_status : (stepStart rate e st).2 = st := rfl

end common

section port
variable (s : State) (item : PortItem) (items : List PortItem)

@[simp] theorem presentNext_enc : (s.presentNext item).enc = s.enc := rfl
@[simp] theorem presentNext_port : (s.presentNext item).port = item :: s.port := rfl
@[simp] theorem presentNext_returned : (s.presentNext item).returned = s.returned := rfl
@[simp] theorem presentNext_answers : (s.presentNext item).answers = s.answers := rfl
@[simp] theorem presentNext_draws : (s.presentNext item).draws = s.draws := rfl
@[simp] theorem present_enc : (s.present items).enc = s.enc := rfl
@[simp] theorem present_port : (s.present items).port = s.port ++ items := rfl
@[simp] theorem present_returned : (s.present items).returned = s.returned := rfl
@[simp] theorem present_answers : (s.present items).answers = s.answers := rfl
@[simp] theorem present_draws : (s.present items).draws = s.draws := rfl

end port

section answer
variable (r : SinkRequest) (s : State) (p : List PortItem) (a : SinkStatus) (l : List SinkStatus)

/-- The sink's answer does not look at the command port. -/
@[simp] theorem sinkAnswer_port : State.sinkAnswer r { s with port := p } = s.sinkAnswer r := rfl

theorem sinkAnswer_scheduled (h : s.answers = a :: l) : s.sinkAnswer r = a := by
  simp [State.sinkAnswer, h]

theorem sinkAnswer_free (h : s.answers = []) : s.sinkAnswer r = Config.sinkAnswer s.draws r := by
  simp [State.sinkAnswer, h]

end answer

section events
variable (rate : Nat) (f : Frame) (st : SinkStatus) (e : SinkErr)

@[simp] theorem status_init : (SinkEvent.init rate st).status = st := rfl
@[simp] theorem status_write : (SinkEvent.write f st).status = st := rfl
@[simp] theorem request_init : (SinkEvent.init rate st).request = .init rate := rfl
@[simp] theorem request_write : (SinkEvent.write f st).request = .write f := rfl
@[simp] theorem accepted_init : (SinkEvent.init rate st).accepted = [] := rfl
@[simp] theorem accepted_write_ok : (SinkEvent.write f .ok).accepted = f := rfl
@[simp] theorem accepted_write_err : (SinkEvent.write f (.err e)).accepted = [] := rfl
@[simp] theorem isFailedWrite_init : (SinkEvent.init rate st).isFailedWrite = false := rfl
@[simp] theorem isFailedWrite_write_ok : (SinkEvent.write f .ok).isFailedWrite = false := rfl
@[simp] theorem isFailedWrite_write_err : (SinkEvent.write f (.err e)).isFailedWrite = true := rfl

end events

end Sys2Proof.Machine
end

