-- ==== Sys2Proof/Laws/Ops.lean ====
section
/-! SUPPORT. One lemma per shared operation that says everything it can do. -/

namespace Sys2Proof.Machine

/-- Everything `SinkWrite` can do: it answers a next state, and the encoder's three fields, the status
returned, the port and the sink's side are these. -/
theorem sinkWrite_next {f : Frame} {s t : State} (h : sinkWrite f s = .next t) :
    t.enc.pos = s.enc.pos + 1 ∧
      t.enc.hist = s.enc.hist ++ [.write f (s.sinkAnswer (.write f))] ∧
      t.enc.wireKnown = (s.enc.wireKnown && (s.sinkAnswer (.write f) == .ok)) ∧
      t.returned = some (s.sinkAnswer (.write f)) ∧
      t.port = s.port ∧ t.answers = s.answers.tail ∧ t.draws = s.draws + 1 := by
  cases h
  simp

/-- Everything `SinkInit` can do. -/
theorem sinkInit_next {rate : Nat} {s t : State} (h : sinkInit rate s = .next t) :
    t.enc.pos = s.enc.pos + 1 ∧
      t.enc.hist = s.enc.hist ++ [.init rate (s.sinkAnswer (.init rate))] ∧
      t.enc.wireKnown = s.enc.wireKnown ∧
      t.returned = some (s.sinkAnswer (.init rate)) ∧
      t.port = s.port ∧ t.answers = s.answers.tail ∧ t.draws = s.draws + 1 := by
  cases h
  simp

/-- Everything an item can stand for: a command by value, a binary command word as the map has it, a table
word as the decoder has it; each other item is refused by its own name. -/
theorem command_cases (map : CmdWordMap) (item : PortItem) :
    (∃ c, item = .cmd c ∧ item.command map = .ok c.toInstr) ∨
      (∃ w c, item = .word w ∧ map w = some c ∧ item.command map = .ok c.toInstr) ∨
      (∃ w, item = .word w ∧ map w = none ∧ item.command map = .error .unmappedCommandWord) ∨
      (∃ f i, item = .tableWord f ∧ decode f = .ok i ∧ item.command map = .ok i) ∨
      (∃ f e, item = .tableWord f ∧ decode f = .error e ∧
        item.command map = .error (.badTableWord e)) ∨
      (∃ a b, item = .overlap a b ∧ item.command map = .error .overlappingCommands) := by
  cases item with
  | cmd c => simp [PortItem.command]
  | word w => cases h : map w <;> simp [PortItem.command, h]
  | tableWord f => cases h : decode f <;> simp [PortItem.command, h]
  | overlap a b => simp [PortItem.command]

/-- Everything the port's fetch can do. -/
theorem fetch_cases (map : CmdWordMap) (s : State) :
    (s.port = [] ∧ fetch map s = .idle) ∨
      (∃ item rest i, s.port = item :: rest ∧ item.command map = .ok i ∧
        fetch map s = .command i { s with port := rest }) ∨
      (∃ item rest r, s.port = item :: rest ∧ item.command map = .error r ∧
        fetch map s = .refused r) := by
  unfold fetch
  cases hp : s.port with
  | nil => simp
  | cons item rest => cases hc : item.command map <;> simp [hc]

/-- Everything a step can do when it answers a next state: nothing waits and nothing changes, or the
next command is executed. -/
theorem step_next {s t : State} (h : step s = .next t) :
    (s.port = [] ∧ t = s) ∨
      (∃ item rest i, s.port = item :: rest ∧ item.command Config.cmdWordMap = .ok i ∧
        exec i { s with port := rest } = .next t) := by
  unfold step at h
  obtain ⟨hp, hf⟩ | ⟨item, rest, i, hp, hc, hf⟩ | ⟨item, rest, r, hp, hc, hf⟩ :=
    fetch_cases Config.cmdWordMap s <;>
    rw [hf] at h
  · cases h
    exact .inl ⟨hp, rfl⟩
  · exact .inr ⟨item, rest, i, hp, hc, h⟩
  · cases h

theorem wire_nil : wire [] = [] := rfl

theorem wire_append (h₁ h₂ : List SinkEvent) : wire (h₁ ++ h₂) = wire h₁ ++ wire h₂ := by
  simp [wire]

theorem wire_singleton (ev : SinkEvent) : wire [ev] = ev.accepted := by simp [wire]

end Sys2Proof.Machine
end

