-- ==== Sys2Proof/Laws/PerInstr.lean ====
section
/-! SUPPORT. Facts about each instruction as syntax, one lemma per constructor. -/

namespace Sys2Proof.Laws

open Machine

/-- The word of an instruction has as many bytes as its row of the table. -/
def EncodeLength.Statement (i : Instr) : Prop := (encode i).length = i.row.pattern.length

/-- Reducing the operands as the frame does leaves a well-formed instruction. -/
def CanonWellFormed.Statement (i : Instr) : Prop := i.canon.wellFormed = true

@[simp] theorem isU16_wrapU16 (v : Int) : isU16 (wrapU16 v) = true := by
  apply decide_eq_true
  unfold wrapU16
  omega

@[simp] theorem isS16_wrapS16 (v : Int) : isS16 (wrapS16 v) = true := by
  apply decide_eq_true
  unfold wrapS16
  split <;> omega

@[simp] theorem isChan_emod (v : Int) : isChan (v % 4) = true := by
  apply decide_eq_true
  omega

theorem EncodeLength.start : Statement .start := rfl

theorem CanonWellFormed.start :
    Statement .start := by
  simp [Statement, Instr.canon, Instr.wellFormed]

theorem EncodeLength.setMasterGain (a b : Int) : Statement (.setMasterGain a b) := rfl

theorem CanonWellFormed.setMasterGain (a b : Int) :
    Statement (.setMasterGain a b) := by
  simp [Statement, Instr.canon, Instr.wellFormed]

theorem EncodeLength.setSampleRateOffset (a b : Int) : Statement (.setSampleRateOffset a b) := rfl

theorem CanonWellFormed.setSampleRateOffset (a b : Int) :
    Statement (.setSampleRateOffset a b) := by
  simp [Statement, Instr.canon, Instr.wellFormed]

theorem EncodeLength.playTrackSolo (a b : Int) (l : Bool) : Statement (.playTrackSolo a b l) := rfl

theorem CanonWellFormed.playTrackSolo (a b : Int) (l : Bool) :
    Statement (.playTrackSolo a b l) := by
  simp [Statement, Instr.canon, Instr.wellFormed]

theorem EncodeLength.playTrackPoly (a b : Int) (l : Bool) : Statement (.playTrackPoly a b l) := rfl

theorem CanonWellFormed.playTrackPoly (a b : Int) (l : Bool) :
    Statement (.playTrackPoly a b l) := by
  simp [Statement, Instr.canon, Instr.wellFormed]

theorem EncodeLength.loadTrack (a b : Int) (l : Bool) : Statement (.loadTrack a b l) := rfl

theorem CanonWellFormed.loadTrack (a b : Int) (l : Bool) :
    Statement (.loadTrack a b l) := by
  simp [Statement, Instr.canon, Instr.wellFormed]

theorem EncodeLength.stopTrack (a : Int) : Statement (.stopTrack a) := rfl

theorem CanonWellFormed.stopTrack (a : Int) :
    Statement (.stopTrack a) := by
  simp [Statement, Instr.canon, Instr.wellFormed]

theorem EncodeLength.pauseTrack (a : Int) : Statement (.pauseTrack a) := rfl

theorem CanonWellFormed.pauseTrack (a : Int) :
    Statement (.pauseTrack a) := by
  simp [Statement, Instr.canon, Instr.wellFormed]

theorem EncodeLength.resumeTrack (a : Int) : Statement (.resumeTrack a) := rfl

theorem CanonWellFormed.resumeTrack (a : Int) :
    Statement (.resumeTrack a) := by
  simp [Statement, Instr.canon, Instr.wellFormed]

theorem EncodeLength.setTrackLoopOn (a : Int) : Statement (.setTrackLoopOn a) := rfl

theorem CanonWellFormed.setTrackLoopOn (a : Int) :
    Statement (.setTrackLoopOn a) := by
  simp [Statement, Instr.canon, Instr.wellFormed]

theorem EncodeLength.setTrackLoopOff (a : Int) : Statement (.setTrackLoopOff a) := rfl

theorem CanonWellFormed.setTrackLoopOff (a : Int) :
    Statement (.setTrackLoopOff a) := by
  simp [Statement, Instr.canon, Instr.wellFormed]

theorem EncodeLength.stopAllTracks : Statement .stopAllTracks := rfl

theorem CanonWellFormed.stopAllTracks :
    Statement .stopAllTracks := by
  simp [Statement, Instr.canon, Instr.wellFormed]

theorem EncodeLength.resumeAllInSync : Statement .resumeAllInSync := rfl

theorem CanonWellFormed.resumeAllInSync :
    Statement .resumeAllInSync := by
  simp [Statement, Instr.canon, Instr.wellFormed]

theorem EncodeLength.setTrackGain (a b : Int) : Statement (.setTrackGain a b) := rfl

theorem CanonWellFormed.setTrackGain (a b : Int) :
    Statement (.setTrackGain a b) := by
  simp [Statement, Instr.canon, Instr.wellFormed]

theorem EncodeLength.fadeTrack (a b m : Int) (l : Bool) : Statement (.fadeTrack a b m l) := rfl

theorem CanonWellFormed.fadeTrack (a b m : Int) (l : Bool) :
    Statement (.fadeTrack a b m l) := by
  simp [Statement, Instr.canon, Instr.wellFormed]

end Sys2Proof.Laws
end

