-- ==== Sys2Proof/Laws/Scratch.lean ====
section
/-! SUPPORT. What one `BufWrite`, a sequence of them and the indexing of a body do. -/

namespace Sys2Proof.Machine

@[simp] theorem bufWrite_length (i : Nat) (b : Byte) (buf : Frame) :
    (bufWrite i b buf).length = buf.length := by simp [bufWrite]

theorem bufWrite_same (i : Nat) (b : Byte) (buf : Frame) (h : i < buf.length) :
    (bufWrite i b buf)[i]? = some b := by simp [bufWrite, h]

theorem bufWrite_other (i j : Nat) (b : Byte) (buf : Frame) (h : i ≠ j) :
    (bufWrite i b buf)[j]? = buf[j]? := by simp [bufWrite, h]

@[simp] theorem bufWrites_nil (buf : Frame) : bufWrites [] buf = buf := rfl

@[simp] theorem bufWrites_cons (w : Nat × Byte) (ws : List (Nat × Byte)) (buf : Frame) :
    bufWrites (w :: ws) buf = bufWrites ws (bufWrite w.1 w.2 buf) := rfl

@[simp] theorem bufWrites_length (ws : List (Nat × Byte)) (buf : Frame) :
    (bufWrites ws buf).length = buf.length := by
  induction ws generalizing buf with
  | nil => rfl
  | cons w ws ih => simp [ih]

/-- The indices and bytes that `indexed` pairs. -/
theorem mem_indexed {i : Nat} {body : List Byte} {p : Nat × Byte} (h : p ∈ indexed i body) :
    i ≤ p.1 ∧ p.1 < i + body.length ∧ body[p.1 - i]? = some p.2 := by
  induction body generalizing i with
  | nil => simp [indexed] at h
  | cons b bs ih =>
    rcases List.mem_cons.1 h with rfl | h'
    · simp
    · obtain ⟨h1, h2, h3⟩ := ih h'
      refine ⟨by omega, by simp only [List.length_cons]; omega, ?_⟩
      rw [show p.1 - i = (p.1 - (i + 1)) + 1 by omega]
      simpa using h3

end Sys2Proof.Machine
end

