-- ==== Sys2Proof/Laws/Text.lean ====
section
/-! SUPPORT. What the parts of the text reader do on the text the writer makes. -/

namespace Sys2Proof.Machine

theorem digitValue_digitChar (d : Nat) (h : d < 10) : digitValue 10 (digitChar d) = some d := by
  revert h
  revert d
  decide

theorem readDigits_map_digitChar (l : List Nat) (h : ∀ d ∈ l, d < 10) (acc : Nat) :
    readDigits 10 (l.map digitChar) acc = some (l.foldl (fun a d => a * 10 + d) acc) := by
  induction l generalizing acc with
  | nil => rfl
  | cons d l ih =>
    simp only [List.map_cons, readDigits, digitValue_digitChar d (h d (by simp))]
    exact ih (fun x hx => h x (by simp [hx])) _

theorem splitAtChar_of_not_mem (sep : Char) (a : List Char) (h : ∀ c ∈ a, c ≠ sep) :
    splitAtChar sep a = [a] := by
  induction a with
  | nil => rfl
  | cons c a ih => simp [splitAtChar, h c (by simp), ih (fun c hc => h c (by simp [hc]))]

theorem splitAtChar_append (sep : Char) (a rest : List Char) (h : ∀ c ∈ a, c ≠ sep) :
    splitAtChar sep (a ++ sep :: rest) = a :: splitAtChar sep rest := by
  induction a with
  | nil => simp [splitAtChar]
  | cons c a ih => simp [splitAtChar, h c (by simp), ih (fun c hc => h c (by simp [hc]))]

/-- A text that neither begins nor ends with a space is not trimmed. -/
theorem trimSpaces_of_ends (a : List Char) (h₁ : ∀ c cs, a = c :: cs → c ≠ ' ')
    (h₂ : ∀ c cs, a.reverse = c :: cs → c ≠ ' ') : trimSpaces a = a := by
  have drop_id : ∀ l : List Char, (∀ c cs, l = c :: cs → c ≠ ' ') →
      l.dropWhile (· == ' ') = l := by
    intro l hl
    cases l with
    | nil => rfl
    | cons c l => simp [hl c l rfl]
  rw [trimSpaces, drop_id a h₁, drop_id _ h₂, List.reverse_reverse]

end Sys2Proof.Machine
end

