-- ==== Sys2Proof/Tests/Slice0.lean ====
section
/-! SUPPORT. The model's own tests, one step each. Expected bytes are the spec's: W<n> are the source's worked
examples (95_test_vectors.md part 1), "2.x" the derived vectors of its part 2, and bit patterns the `encoding`
column of spec/opcode_table.json. Then one witness for every statement that has hypotheses. -/

namespace Sys2Proof.Tests

open Sys2Proof Sys2Proof.Machine

/-- A state with these items at the port and these answers of the sink, otherwise as after reset. -/
def stateWith (port : List PortItem) (answers : List SinkStatus) : State :=
  { State.reset with port := port, answers := answers }

/-- A next state, if the outcome is one. -/
def after : Host.Outcome State Fault Refusal → Option State
  | .next s => some s
  | _ => none

/-- The refusal, if the outcome is one. -/
def refusal : Host.Outcome State Fault Refusal → Option Refusal
  | .refused r => some r
  | _ => none

/-- The requests recorded in the history of the next state. -/
def requests (o : Host.Outcome State Fault Refusal) : Option (List SinkRequest) :=
  (after o).map (fun s => s.enc.hist.map SinkEvent.request)

/-- What an instruction asks of the sink from reset. -/
def asks (i : Instr) : Option (List SinkRequest) := requests (exec i State.reset)

/-! ### Well-formedness: one ill-formed term for each check -/

theorem test_ill_formed_channel : (Instr.setMasterGain 4 0).wellFormed = false := by decide
theorem test_ill_formed_channel_negative :
    (Instr.setSampleRateOffset (-1) 0).wellFormed = false := by decide
theorem test_ill_formed_gain : (Instr.setTrackGain 0 32768).wellFormed = false := by decide
theorem test_ill_formed_gain_low : (Instr.setTrackGain 0 (-32769)).wellFormed = false := by decide
theorem test_ill_formed_track : (Instr.stopTrack 65536).wellFormed = false := by decide
theorem test_ill_formed_track_negative :
    (Instr.playTrackSolo (-1) 0 true).wellFormed = false := by decide
theorem test_ill_formed_time : (Instr.fadeTrack 0 0 65536 true).wellFormed = false := by decide
theorem test_well_formed_bounds :
    (Instr.fadeTrack 65535 (-32768) 65535 true).wellFormed = true := by decide

/-! ### Decoding: words written out bit by bit from the table's `encoding` -/

theorem test_decode_start : decode [] = .ok .start := by decide
theorem test_decode_setMasterGain :
    decode [0b11110000, 0b10101010, 0b00001000, 0b00000101, 0b00000010, 0b11110110, 0b11111111,
      0b01010101] = .ok (.setMasterGain 2 (-10)) := by decide
theorem test_decode_setSampleRateOffset :
    decode [0b11110000, 0b10101010, 0b00001000, 0b00001100, 0b00000001, 0b10011100, 0b01111111,
      0b01010101] = .ok (.setSampleRateOffset 1 0x7F9C) := by decide
theorem test_decode_playTrackSolo :
    decode [0b11110000, 0b10101010, 0b00001010, 0b00000011, 0b00000000, 0b00101100, 0b00000001,
      0b00000010, 0b00000001, 0b01010101] = .ok (.playTrackSolo 300 2 true) := by decide
theorem test_decode_playTrackPoly :
    decode [0b11110000, 0b10101010, 0b00001010, 0b00000011, 0b00000001, 0b00000000, 0b10000000,
      0b00000011, 0b00000000, 0b01010101] = .ok (.playTrackPoly 32768 3 false) := by decide
theorem test_decode_loadTrack :
    decode [0b11110000, 0b10101010, 0b00001010, 0b00000011, 0b00000111, 0b11111111, 0b00001111,
      0b00000001, 0b00000000, 0b01010101] = .ok (.loadTrack 4095 1 false) := by decide
theorem test_decode_stopTrack :
    decode [0b11110000, 0b10101010, 0b00001010, 0b00000011, 0b00000100, 0b01110000, 0b00010001,
      0b00000000, 0b00000000, 0b01010101] = .ok (.stopTrack 4464) := by decide
theorem test_decode_pauseTrack :
    decode [0b11110000, 0b10101010, 0b00001010, 0b00000011, 0b00000010, 0b11111111, 0b11111111,
      0b00000000, 0b00000000, 0b01010101] = .ok (.pauseTrack 65535) := by decide
theorem test_decode_resumeTrack :
    decode [0b11110000, 0b10101010, 0b00001010, 0b00000011, 0b00000011, 0b11111110, 0b11111111,
      0b00000000, 0b00000000, 0b01010101] = .ok (.resumeTrack 65534) := by decide
theorem test_decode_setTrackLoopOn :
    decode [0b11110000, 0b10101010, 0b00001010, 0b00000011, 0b00000101, 0b00101100, 0b00000001,
      0b00000000, 0b00000000, 0b01010101] = .ok (.setTrackLoopOn 300) := by decide
theorem test_decode_setTrackLoopOff :
    decode [0b11110000, 0b10101010, 0b00001010, 0b00000011, 0b00000110, 0b00101100, 0b00000001,
      0b00000000, 0b00000000, 0b01010101] = .ok (.setTrackLoopOff 300) := by decide
theorem test_decode_stopAllTracks :
    decode [0b11110000, 0b10101010, 0b00000101, 0b00000100, 0b01010101] = .ok .stopAllTracks := by
  decide
theorem test_decode_resumeAllInSync :
    decode [0b11110000, 0b10101010, 0b00000101, 0b00001011, 0b01010101] =
      .ok .resumeAllInSync := by decide
theorem test_decode_setTrackGain :
    decode [0b11110000, 0b10101010, 0b00001001, 0b00001000, 0b00101100, 0b00000001, 0b00000000,
      0b10000000, 0b01010101] = .ok (.setTrackGain 300 (-32768)) := by decide
theorem test_decode_fadeTrack :
    decode [0b11110000, 0b10101010, 0b00001100, 0b00001010, 0b00000101, 0b00000000, 0b10111010,
      0b11111111, 0b11010000, 0b10000111, 0b00000001, 0b01010101] =
      .ok (.fadeTrack 5 (-70) 34768 true) := by decide

/-- R64, R47, R48: words that are no row of the table, each rejected by the field that is wrong. -/
theorem test_decode_rejects_by_name :
    decode [0xF0, 0xAA] = .error .tooShort ∧
    decode [0xF0, 0xAB, 0x05, 0x04, 0x55] = .error .startMarkers ∧
    decode [0xF0, 0xAA, 0x04, 0x04, 0x55] = .error .lengthField ∧
    decode [0xF0, 0xAA, 0x06, 0x04, 0x00, 0x55] = .error .lengthField ∧
    decode [0xF0, 0xAA, 0x05, 0x06, 0x55] = .error .unknownOpcode ∧
    decode [0xF0, 0xAA, 0x0A, 0x03, 0x08, 0x00, 0x00, 0x00, 0x00, 0x55] =
      .error .unknownSubCode ∧
    decode [0xF0, 0xAA, 0x08, 0x05, 0x04, 0x00, 0x00, 0x55] = .error .channelByte ∧
    decode [0xF0, 0xAA, 0x0A, 0x03, 0x00, 0x00, 0x00, 0x00, 0x02, 0x55] = .error .flagsByte ∧
    decode [0xF0, 0xAA, 0x0C, 0x0A, 0x00, 0x00, 0x00, 0x00, 0x00, 0x00, 0x02, 0x55] =
      .error .stopAtEndByte ∧
    decode [0xF0, 0xAA, 0x05, 0x04, 0xAA] = .error .endMarker := by decide

/-! ### What each instruction asks of the sink -/

/-- 2.2 -/
theorem test_exec_start : asks .start = some [.init 57600] := by decide
/-- W5 -/
theorem test_exec_setMasterGain : asks (.setMasterGain 1 (-10)) =
    some [.write [0xF0, 0xAA, 0x08, 0x05, 0x01, 0xF6, 0xFF, 0x55]] := by decide
/-- 2.3: a negative channel, a value above 16 bits -/
theorem test_exec_setMasterGain_wraps : asks (.setMasterGain (-1) 65536) =
    some [.write [0xF0, 0xAA, 0x08, 0x05, 0x03, 0x00, 0x00, 0x55]] := by decide
/-- 2.3 -/
theorem test_exec_setSampleRateOffset : asks (.setSampleRateOffset (-2) 1) =
    some [.write [0xF0, 0xAA, 0x08, 0x0C, 0x02, 0x01, 0x00, 0x55]] := by decide
/-- W6 -/
theorem test_exec_playTrackSolo : asks (.playTrackSolo 300 2 true) =
    some [.write [0xF0, 0xAA, 0x0A, 0x03, 0x00, 0x2C, 0x01, 0x02, 0x01, 0x55]] := by decide
/-- 2.4 -/
theorem test_exec_playTrackSolo_wraps : asks (.playTrackSolo (-1) (-1) true) =
    some [.write [0xF0, 0xAA, 0x0A, 0x03, 0x00, 0xFF, 0xFF, 0x03, 0x01, 0x55]] := by decide
/-- 2.4 -/
theorem test_exec_playTrackPoly : asks (.playTrackPoly 0 7 false) =
    some [.write [0xF0, 0xAA, 0x0A, 0x03, 0x01, 0x00, 0x00, 0x03, 0x00, 0x55]] := by decide
/-- 2.4 -/
theorem test_exec_loadTrack : asks (.loadTrack 2 5 true) =
    some [.write [0xF0, 0xAA, 0x0A, 0x03, 0x07, 0x02, 0x00, 0x01, 0x01, 0x55]] := by decide
/-- 2.4 -/
theorem test_exec_stopTrack : asks (.stopTrack 70000) =
    some [.write [0xF0, 0xAA, 0x0A, 0x03, 0x04, 0x70, 0x11, 0x00, 0x00, 0x55]] := by decide
/-- 2.4 -/
theorem test_exec_pauseTrack : asks (.pauseTrack 300) =
    some [.write [0xF0, 0xAA, 0x0A, 0x03, 0x02, 0x2C, 0x01, 0x00, 0x00, 0x55]] := by decide
/-- 2.4 -/
theorem test_exec_resumeTrack : asks (.resumeTrack (-2)) =
    some [.write [0xF0, 0xAA, 0x0A, 0x03, 0x03, 0xFE, 0xFF, 0x00, 0x00, 0x55]] := by decide
/-- 2.4 -/
theorem test_exec_setTrackLoopOn : asks (.setTrackLoopOn 300) =
    some [.write [0xF0, 0xAA, 0x0A, 0x03, 0x05, 0x2C, 0x01, 0x00, 0x00, 0x55]] := by decide
/-- 2.4 -/
theorem test_exec_setTrackLoopOff : asks (.setTrackLoopOff 300) =
    some [.write [0xF0, 0xAA, 0x0A, 0x03, 0x06, 0x2C, 0x01, 0x00, 0x00, 0x55]] := by decide
/-- W3 -/
theorem test_exec_stopAllTracks : asks .stopAllTracks =
    some [.write [0xF0, 0xAA, 0x05, 0x04, 0x55]] := by decide
/-- W4 -/
theorem test_exec_resumeAllInSync : asks .resumeAllInSync =
    some [.write [0xF0, 0xAA, 0x05, 0x0B, 0x55]] := by decide
/-- 2.6 -/
theorem test_exec_setTrackGain : asks (.setTrackGain (-1) 40000) =
    some [.write [0xF0, 0xAA, 0x09, 0x08, 0xFF, 0xFF, 0x40, 0x9C, 0x55]] := by decide
/-- W7 -/
theorem test_exec_fadeTrack : asks (.fadeTrack 5 50 2000 true) =
    some [.write [0xF0, 0xAA, 0x0C, 0x0A, 0x05, 0x00, 0x32, 0x00, 0xD0, 0x07, 0x01, 0x55]] := by
  decide
/-- 2.6 -/
theorem test_exec_fadeTrack_time : asks (.fadeTrack 1 0 70000 false) =
    some [.write [0xF0, 0xAA, 0x0C, 0x0A, 0x01, 0x00, 0x00, 0x00, 0x70, 0x11, 0x00, 0x55]] := by
  decide
/-- W1, and 2.1 for negative channels -/
theorem test_chan : [0, 3, 4, 255, -1, -4, -5, 256].map chan =
    ([0, 3, 0, 3, 3, 0, 3, 0] : List Byte) := by decide

/-- R60, R67: the row each operation selects, its operands in the source's order. -/
theorem test_command_rows :
    [Cmd.start, .setMasterGain 1 2, .playTrackSolo 1 2 true, .playTrackPoly 1 2 false,
      .loadTrack 1 2 true, .stopTrack 1, .pauseTrack 2].map Cmd.toInstr =
      [.start, .setMasterGain 1 2, .playTrackSolo 1 2 true, .playTrackPoly 1 2 false,
        .loadTrack 1 2 true, .stopTrack 1, .pauseTrack 2] ∧
    [Cmd.resumeTrack 3, .setTrackLoop 4 true, .setTrackLoop 4 false, .stopAllTracks,
      .resumeAllInSync, .setTrackGain 1 2, .fadeTrack 1 2 3 true,
      .setSampleRateOffset 1 2].map Cmd.toInstr =
      [.resumeTrack 3, .setTrackLoopOn 4, .setTrackLoopOff 4, .stopAllTracks,
        .resumeAllInSync, .setTrackGain 1 2, .fadeTrack 1 2 3 true,
        .setSampleRateOffset 1 2] := by decide

/-! ### Steps -/

/-- 2.7, a failed write: `pos`, `hist`, `wireKnown` and the status returned. -/
theorem test_step_failed_write :
    (after (step (stateWith [.cmd .stopAllTracks] [.err .some]))).map
      (fun s => (s.enc, s.returned, s.port)) =
    some ({ pos := 1, hist := [.write [0xF0, 0xAA, 0x05, 0x04, 0x55] (.err .some)],
            wireKnown := false }, some (.err .some), []) := rfl
/-- 2.7, an accepted write after the line is lost (P4): `wireKnown` stays false. -/
theorem test_step_accepted_write_after_failure :
    (after (exec .resumeAllInSync
      { stateWith [] [.ok] with enc := { pos := 2, hist := [], wireKnown := false } })).map
      (fun s => (s.enc.wireKnown, s.enc.pos, wire s.enc.hist)) =
    some (false, 3, [0xF0, 0xAA, 0x05, 0x0B, 0x55]) := by decide
/-- 2.2, a failed `start` (P5): `wireKnown` stays true and the wire empty. -/
theorem test_step_failed_start :
    (after (step (stateWith [.cmd .start] [.err .some]))).map
      (fun s => (s.enc.wireKnown, s.enc.hist, s.returned, wire s.enc.hist)) =
    some (true, [.init 57600 (.err .some)], some (.err .some), []) := rfl
/-- A table word at the port is the first instruction after reset. -/
theorem test_step_table_word :
    requests (step (State.reset.withFetchWord 40 0x550405AAF0)) =
      some [.write [0xF0, 0xAA, 0x05, 0x04, 0x55]] ∧
    decodeTableWord 40 0x550405AAF0 = some .stopAllTracks ∧
    requests (step (State.reset.withFetchWord 0 0)) = some [.init 57600] ∧
    decodeTableWord 0 0 = some .start := by decide
theorem test_step_refuses_bad_table_word :
    refusal (step (stateWith [.tableWord [0xF0, 0xAA, 0x05, 0x06, 0x55]] [])) =
      some (.badTableWord .unknownOpcode) := by decide
theorem test_step_refuses_overlap :
    refusal (step (stateWith [.overlap .start .stopAllTracks] [])) =
      some .overlappingCommands := by decide

/-! ### Text (R68) -/

theorem test_parse_setMasterGain :
    parseCommand "setMasterGain(1, -10)".toList = some (.setMasterGain 1 (-10)) := by decide
theorem test_parse_hex :
    parseCommand "playTrackSolo(0x12c, 2, true)".toList = some (.playTrackSolo 300 2 true) := by
  decide
theorem test_parse_negative_hex :
    parseCommand "setSampleRateOffset(4,-0x64)".toList = some (.setSampleRateOffset 4 (-100)) := by
  decide
theorem test_parse_rejects_internal_routine :
    parseCommand "buildTrackControlFrame(1, 0, 0, 0)".toList = none := by decide
theorem test_parse_program :
    parseProgram "start()\nsetTrackLoop(300, false)\n".toList =
      some [.start, .setTrackLoop 300 false] := by decide

/-! ### Witnesses: what meets the hypotheses of each statement that has some -/

/-- FrameCommandsTakeTheCommonStep, EveryFrameHasTheEnvelope, LengthIsAConstantOfTheOpcode,
PackFrameLaw (second part), ReservedValuesAreNeverSent, FrameDataBitsRange. -/
theorem witness_frame_command : Instr.stopAllTracks ≠ .start := by decide
/-- The clauses of ReservedValuesAreNeverSent: an opcode 3, an opcode 5, an opcode 12, an opcode 10. -/
theorem witness_reserved_values_clauses :
    (encode (.loadTrack 0 3 true))[3]? = some 0x03 ∧ (encode (.setMasterGain 3 0))[3]? = some 0x05 ∧
    (encode (.setSampleRateOffset 3 0))[3]? = some 0x0C ∧
    (encode (.fadeTrack 0 0 0 true))[3]? = some 0x0A := by decide
/-- TrackControlFramesShareOneRoutine. -/
theorem witness_track_control : (encode (.pauseTrack 65535))[3]? = some 0x03 := by decide
/-- NoCommandFails, StepRunsTheDecodedCommand (a command by value). -/
theorem witness_command_at_port :
    (stateWith [.cmd (.setTrackLoop 1 true)] []).port = .cmd (.setTrackLoop 1 true) :: [] := by
  decide
/-- OutputDependsOnParametersAlone: two states that differ in history, line mark and port. -/
theorem witness_same_answer :
    (stateWith [] [.err .some]).sinkAnswer (Instr.request .stopAllTracks) =
      State.sinkAnswer (Instr.request .stopAllTracks)
        { stateWith [.cmd .start] [.err .some, .ok] with
          enc := { pos := 9, hist := [.init 57600 .ok], wireKnown := false } } := rfl
/-- SinkFailureEffect, for a frame command and for `start`. -/
theorem witness_sink_failure :
    (stateWith [] [.err .some]).sinkAnswer (Instr.request .stopAllTracks) = .err .some ∧
    (stateWith [] [.err .some]).sinkAnswer (Instr.request .start) = .err .some ∧
    (stateWith [] [.err .some]).enc.pos = (stateWith [] [.err .some]).enc.hist.length := ⟨rfl, rfl, rfl⟩
/-- AcceptedFrameExtendsWire; with CommandIssuedTwiceAppendsTwice's two answers. -/
theorem witness_sink_accepts :
    (stateWith [] [.ok, .ok]).sinkAnswer (Instr.request (.stopTrack 1)) = .ok ∧
    ∃ t, exec (.stopTrack 1) (stateWith [] [.ok, .ok]) = .next t ∧
      t.sinkAnswer (Instr.request (.stopTrack 1)) = .ok := ⟨by decide, _, rfl, by decide⟩
/-- FailureValuesAreOpaque. -/
theorem witness_answer_scheduled : (stateWith [] [.err .some]).answers ≠ [] := by decide
/-- HostIntWidthIsIrrelevant, at its boundary: a 16-bit `int` narrows 40000. -/
theorem witness_host_int : 16 ≤ 16 ∧ hostInt 16 40000 = -25536 := by decide
/-- SignedReadingOfAField, at both ends of the range. -/
theorem witness_signed_range :
    (-32768 : Int) ≤ -32768 ∧ (-32768 : Int) ≤ 32767 ∧ (32767 : Int) ≤ 32767 := by decide
/-- ChannelByteIsTheMask, at its boundary. -/
theorem witness_mask_width : 2 ≤ 2 ∧ (BitVec.ofInt 2 (-5) &&& BitVec.ofNat 2 3).toNat = 3 := by
  decide
/-- ScratchBufferBuildsTheFrame: the writes of a frame in reverse order, into a new buffer. -/
theorem witness_scratch :
    ([0x01, 0xF6, 0xFF] : List Byte).length + 5 = Opcode.masterVolume.frameLen ∧
    (scratchNew .masterVolume).length = Opcode.masterVolume.frameLen ∧
    (frameWrites .masterVolume [0x01, 0xF6, 0xFF]).reverse.Perm
      (frameWrites .masterVolume [0x01, 0xF6, 0xFF]) :=
  ⟨rfl, by simp [scratchNew], List.reverse_perm _⟩
/-- DecodeOfEncode, DecodeOfEncodeReduces. -/
theorem witness_well_formed : (Instr.playTrackSolo 65535 3 true).wellFormed = true := by decide
/-- EncodeOfDecode, DecoderAcceptsExactlyTheTable. -/
theorem witness_decodes : decode [0xF0, 0xAA, 0x05, 0x0B, 0x55] = .ok .resumeAllInSync := by decide
/-- SameFrameIffSameReducedCommand (R63's own example). -/
theorem witness_same_frame :
    encode (.playTrackSolo 1 0 false) = encode (.playTrackSolo 65537 4 false) := by decide
/-- FrameIsInstanceOfItsRowOnly. -/
theorem witness_row : Row.fadeTrack ∈ opcodeTable := by decide
/-- WireIsReadByItsLengthFields: a body that holds the end marker and a start marker (R62). -/
theorem witness_wire_commands :
    ∀ i ∈ [Instr.setMasterGain 0 85, .stopAllTracks, .setTrackGain 0x55F0 0], i ≠ .start := by decide
/-- CommandWordsGoThroughTheMapParameter: a map, a word it gives a command and a word it gives none. -/
theorem witness_word_map :
    (stateWith [.word [0x01]] []).port = .word [0x01] :: [] ∧
    (fun w : CmdWord => if w = [0x01] then some Cmd.stopAllTracks else none) [0x01] =
      some .stopAllTracks ∧
    (stateWith [.word [0x02]] []).port = .word [0x02] :: [] ∧
    (fun w : CmdWord => if w = [0x01] then some Cmd.stopAllTracks else none) [0x02] = none := by
  decide
/-- StepRunsTheDecodedCommand (a table word by its bytes), WordsOutsideTheTableAreRefused (an accepted word). -/
theorem witness_table_word_at_port :
    (stateWith [.tableWord [0xF0, 0xAA, 0x05, 0x04, 0x55]] []).port =
      .tableWord [0xF0, 0xAA, 0x05, 0x04, 0x55] :: [] ∧
    decode [0xF0, 0xAA, 0x05, 0x04, 0x55] = .ok .stopAllTracks ∧
    Row.stopAllTracks.isInstance [0xF0, 0xAA, 0x05, 0x04, 0x55] = true := by decide
/-- StepRunsTheDecodedCommand (a table word). -/
theorem witness_table_word : decodeTableWord 40 0x550B05AAF0 = some .resumeAllInSync := by decide
/-- WordsOutsideTheTableAreRefused: a word that is an instance of no row. -/
theorem witness_word_outside : ∀ r ∈ opcodeTable, r.isInstance [0xF0, 0xAA, 0x05, 0x06, 0x55] = false := by
  decide
/-- NothingHappensWithoutACommand. -/
theorem witness_idle : State.reset.port = [] := rfl
/-- OverlappingCommandsAreRefused. -/
theorem witness_overlap :
    (stateWith [.overlap (.stopTrack 1) .start] []).port = .overlap (.stopTrack 1) .start :: [] := by
  decide
/-- EveryStepKeepsTheInvariant: a state with a history, a line that is lost, and a command. -/
theorem witness_invariant_step : ∃ t,
    Inv { enc := { pos := 1, hist := [.write [0xF0, 0xAA, 0x05, 0x04, 0x55] (.err .some)],
                   wireKnown := false },
          port := [.cmd .start], returned := some (.err .some), answers := [], draws := 1 } ∧
    step { enc := { pos := 1, hist := [.write [0xF0, 0xAA, 0x05, 0x04, 0x55] (.err .some)],
                    wireKnown := false },
           port := [.cmd .start], returned := some (.err .some), answers := [], draws := 1 } =
      .next t :=
  ⟨_, ⟨rfl, by decide, by decide, rfl⟩, rfl⟩
/-- LineMarkIsExactAndSticky, HistoryGrowsOneEventPerCommand: a step, and a run of one. -/
theorem witness_line_mark : ∃ t,
    (stateWith [.cmd .stopAllTracks] [.err .some]).enc.wireKnown =
      (true && noFailedWrite (stateWith [.cmd .stopAllTracks] [.err .some]).enc.hist) ∧
    step (stateWith [.cmd .stopAllTracks] [.err .some]) = .next t ∧
    core.run 1 { State.resetMidTransmission with port := [.cmd .stopAllTracks] } =
      .next (afterWrite [0xF0, 0xAA, 0x05, 0x04, 0x55] State.resetMidTransmission) ∧
    State.resetMidTransmission.enc.wireKnown = false :=
  ⟨_, by decide, rfl, rfl, rfl⟩
/-- RunOfAProgram, with a schedule as long as the program. -/
theorem witness_program :
    (stateWith [.cmd .start, .cmd .stopAllTracks] [.ok, .err .some]).port =
      programPort [.start, .stopAllTracks] ∧
    [Cmd.start, .stopAllTracks].length ≤
      (stateWith [.cmd .start, .cmd .stopAllTracks] [.ok, .err .some]).answers.length := by decide
/-- AcceptedProgramIsReadFromTheWire: a program that is accepted by its schedule. -/
theorem witness_accepted_program : ∃ t,
    (stateWith [.cmd .start, .cmd (.loadTrack 2 5 true)] [.ok, .ok, .err .some]).port =
      programPort [.start, .loadTrack 2 5 true] ∧
    (stateWith [.cmd .start, .cmd (.loadTrack 2 5 true)] [.ok, .ok, .err .some]).answers.take
      [Cmd.start, .loadTrack 2 5 true].length =
      List.replicate [Cmd.start, .loadTrack 2 5 true].length .ok ∧
    core.run 2 (stateWith [.cmd .start, .cmd (.loadTrack 2 5 true)] [.ok, .ok, .err .some]) =
      .next t ∧
    (∀ ev ∈ t.enc.hist, ev.status = .ok) ∧ t.enc.hist.length = 2 :=
  ⟨_, by decide, by decide, rfl, by decide, by decide⟩
/-- AcceptedStartEstablishesThePremise: both parts. -/
theorem witness_start_accepted : ∃ t,
    (stateWith [.cmd .start] [.ok]).enc.hist = [] ∧
    (stateWith [.cmd .start] [.ok]).port = .cmd .start :: [] ∧
    (stateWith [.cmd .start] [.ok]).sinkAnswer (.init 57600) = .ok ∧
    StartedOk (afterInit (stateWith [.cmd .start] [.ok])) ∧
    core.run 1 (afterInit (stateWith [.cmd .start] [.ok])) = .next t :=
  ⟨_, rfl, rfl, rfl, rfl, rfl⟩

end Sys2Proof.Tests
end

/-! The meaning of an instruction, once for all of them: `start` is the initialization, every other
instruction the write of its word; so whatever an instruction does is what its one request does. -/

namespace Sys2Proof.Machine

theorem request_start : Instr.request .start = .init 57600 := rfl

theorem request_of_ne_start {i : Instr} (hi : i ≠ .start) : i.request = .write (encode i) := by
  cases i with
  | start => exact absurd rfl hi
  | _ => rfl

theorem exec_start (s : State) : exec .start s = sinkInit 57600 s := rfl

/-- R36, R77: the frame each meaning builds is the instruction's word, so every frame command is the
common step with that word. -/
theorem exec_of_ne_start {i : Instr} (hi : i ≠ .start) (s : State) :
    exec i s = sinkWrite (encode i) s := by
  cases i with
  | start => exact absurd rfl hi
  | _ => rfl

/-- Everything an instruction can do, whichever it is (R77, R80): its request and the sink's answer
are recorded as one event, the answer is returned, and one answer of the sink is used up. -/
theorem exec_next {i : Instr} {s t : State} (h : exec i s = .next t) :
    t.enc.pos = s.enc.pos + 1 ∧
      t.enc.hist = s.enc.hist ++ [eventOf i.request (s.sinkAnswer i.request)] ∧
      t.enc.wireKnown =
        (s.enc.wireKnown && (decide (i = .start) || s.sinkAnswer i.request == .ok)) ∧
      t.returned = some (s.sinkAnswer i.request) ∧
      t.port = s.port ∧ t.answers = s.answers.tail ∧ t.draws = s.draws + 1 := by
  by_cases hi : i = .start
  · subst hi
    rw [exec_start] at h
    simpa [request_start, eventOf] using sinkInit_next h
  · rw [exec_of_ne_start hi] at h
    simpa [request_of_ne_start hi, hi, eventOf] using sinkWrite_next h

/-- R95: every instruction answers a next state. -/
theorem exec_total (i : Instr) (s : State) : ∃ t, exec i s = .next t := by
  by_cases hi : i = .start
  · exact ⟨_, hi ▸ exec_start s⟩
  · exact ⟨_, exec_of_ne_start hi s⟩

/-- Settles O18: the event an instruction adds and the status it returns are a function of its request
and the sink's answer, and the two states agree on the answer. -/
theorem outputDependsOnParametersAlone : Obligations.OutputDependsOnParametersAlone := by
  intro i s₁ s₂ hanswer
  obtain ⟨t₁, h₁⟩ := exec_total i s₁
  obtain ⟨t₂, h₂⟩ := exec_total i s₂
  obtain ⟨-, hhist₁, -, hret₁, -⟩ := exec_next h₁
  obtain ⟨-, hhist₂, -, hret₂, -⟩ := exec_next h₂
  rw [← hanswer] at hhist₂ hret₂
  exact ⟨t₁, t₂, eventOf i.request (s₁.sinkAnswer i.request), h₁, h₂, hhist₁, hhist₂,
    hret₁.trans hret₂.symm⟩

end Sys2Proof.Machine

/-! The envelope (R47, R48): every frame command's word is a `packFrame` of a body that fills the length
of its opcode, so what holds of such a `packFrame` holds of every frame handed to the sink. -/

namespace Sys2Proof.Machine

section packFrame
variable (op : Opcode) (body : List Byte)

@[simp] theorem packFrame_getElem?_zero : (packFrame op body)[0]? = some 0xF0 := rfl
@[simp] theorem packFrame_getElem?_one : (packFrame op body)[1]? = some 0xAA := rfl
@[simp] theorem packFrame_getElem?_two :
    (packFrame op body)[2]? = some (BitVec.ofNat 8 op.frameLen) := rfl
@[simp] theorem packFrame_getElem?_three : (packFrame op body)[3]? = some op.byte := rfl
@[simp] theorem packFrame_getLast? : (packFrame op body).getLast? = some 0x55 :=
  List.getLast?_concat

end packFrame

/-- R48: the length constant of every opcode fits the one byte of the length field. -/
theorem frameLen_byte_toNat (op : Opcode) : (BitVec.ofNat 8 op.frameLen).toNat = op.frameLen := by
  cases op <;> rfl

/-- R48's table, opcode by opcode. -/
theorem byte_frameLen_mem_table (op : Opcode) :
    (op.byte.toNat, op.frameLen) ∈
      [(3, 10), (4, 5), (5, 8), (8, 9), (10, 12), (11, 5), (12, 8)] := by
  cases op <;> decide

/-- R60, R74: the opcode and the body of each frame command's word. -/
theorem encode_eq_packFrame {i : Instr} (hi : i ≠ .start) :
    ∃ op body, body.length + 5 = op.frameLen ∧ encode i = packFrame op body := by
  cases i with
  | start => exact absurd rfl hi
  | setMasterGain out gain => exact ⟨.masterVolume, [chan out, lo8 gain, hi8 gain], rfl, rfl⟩
  | setSampleRateOffset out offset =>
    exact ⟨.sampleRateOffset, [chan out, lo8 offset, hi8 offset], rfl, rfl⟩
  | playTrackSolo trk out lock =>
    exact ⟨.trackControl, [0x00, lo8 trk, hi8 trk, chan out, lockFlags lock], rfl, rfl⟩
  | playTrackPoly trk out lock =>
    exact ⟨.trackControl, [0x01, lo8 trk, hi8 trk, chan out, lockFlags lock], rfl, rfl⟩
  | loadTrack trk out lock =>
    exact ⟨.trackControl, [0x07, lo8 trk, hi8 trk, chan out, lockFlags lock], rfl, rfl⟩
  | stopTrack trk => exact ⟨.trackControl, [0x04, lo8 trk, hi8 trk, 0x00, 0x00], rfl, rfl⟩
  | pauseTrack trk => exact ⟨.trackControl, [0x02, lo8 trk, hi8 trk, 0x00, 0x00], rfl, rfl⟩
  | resumeTrack trk => exact ⟨.trackControl, [0x03, lo8 trk, hi8 trk, 0x00, 0x00], rfl, rfl⟩
  | setTrackLoopOn trk => exact ⟨.trackControl, [0x05, lo8 trk, hi8 trk, 0x00, 0x00], rfl, rfl⟩
  | setTrackLoopOff trk => exact ⟨.trackControl, [0x06, lo8 trk, hi8 trk, 0x00, 0x00], rfl, rfl⟩
  | stopAllTracks => exact ⟨.stopAll, [], rfl, rfl⟩
  | resumeAllInSync => exact ⟨.resumeAllSync, [], rfl, rfl⟩
  | setTrackGain trk gain => exact ⟨.trackVolume, [lo8 trk, hi8 trk, lo8 gain, hi8 gain], rfl, rfl⟩
  | fadeTrack trk gain timeMs stopAtEnd =>
    exact ⟨.trackFade, [lo8 trk, hi8 trk, lo8 gain, hi8 gain, lo8 timeMs, hi8 timeMs,
      boolByte stopAtEnd], rfl, rfl⟩

/-- R36, R77: the one event a frame command adds is the write of its word. -/
theorem exec_hist_of_ne_start {i : Instr} (hi : i ≠ .start) (s : State) :
    ∃ st t, exec i s = .next t ∧ t.enc.hist = s.enc.hist ++ [.write (encode i) st] := by
  obtain ⟨t, ht⟩ := exec_total i s
  obtain ⟨-, hhist, -⟩ := exec_next ht
  rw [request_of_ne_start hi] at hhist
  exact ⟨_, t, ht, hhist⟩

/-- What a frame command hands to the sink, in the terms of R74: the write of a `packFrame` that has the
length of its opcode. -/
theorem exec_writes_packFrame {i : Instr} (hi : i ≠ .start) (s : State) :
    ∃ op body st t, (packFrame op body).length = op.frameLen ∧ exec i s = .next t ∧
      t.enc.hist = s.enc.hist ++ [.write (packFrame op body) st] := by
  obtain ⟨op, body, hlen, hencode⟩ := encode_eq_packFrame hi
  obtain ⟨st, t, ht, hhist⟩ := exec_hist_of_ne_start hi s
  exact ⟨op, body, st, t, (packFrame_length op body).trans hlen, ht, hencode ▸ hhist⟩

/-- Settles O24: the frame is a `packFrame`, which puts the envelope around its body. -/
theorem everyFrameHasTheEnvelope : Obligations.EveryFrameHasTheEnvelope := by
  intro i s hi
  obtain ⟨op, body, st, t, hlen, ht, hhist⟩ := exec_writes_packFrame hi s
  have hlast : (packFrame op body)[(packFrame op body).length - 1]? = some 0x55 := by
    rw [← List.getLast?_eq_getElem?, packFrame_getLast?]
  exact ⟨packFrame op body, st, t, ht, hhist, packFrame_getElem?_zero op body,
    packFrame_getElem?_one op body, by rw [hlen, packFrame_getElem?_two],
    ⟨op, packFrame_getElem?_three op body, hlen⟩, hlast⟩

/-- Settles O25: bytes 2 and 3 of a `packFrame` are its opcode's length constant and its opcode, and the
constant fits a byte. -/
theorem lengthIsAConstantOfTheOpcode : Obligations.LengthIsAConstantOfTheOpcode := by
  intro i s hi
  obtain ⟨op, body, st, t, hlen, ht, hhist⟩ := exec_writes_packFrame hi s
  exact ⟨packFrame op body, st, t, _, _, ht, hhist, packFrame_getElem?_two op body,
    packFrame_getElem?_three op body, (frameLen_byte_toNat op).trans hlen.symm,
    hlen ▸ byte_frameLen_mem_table op⟩

/-- Settles O26: the fifteen values of R49 and R50, each by evaluation. -/
theorem opcodeAndSubCodeValues : Obligations.OpcodeAndSubCodeValues := by
  unfold Obligations.OpcodeAndSubCodeValues
  decide

end Sys2Proof.Machine

/-! The primitives of a frame: the common step as a whole next state (R77), the byte fields in R9's bit
notation, and the one routine behind every TRACK_CONTROL word (R76). -/

namespace Sys2Proof.Machine

/-- R77: the write of a frame is the common step, the next state written out field by field. -/
theorem sinkWrite_eq_afterWrite (f : Frame) (s : State) :
    sinkWrite f s = .next (afterWrite f s) := rfl

/-- Settles O15: each meaning is the write of the instruction's word, and that write is the common
step. -/
theorem frameCommandsTakeTheCommonStep : Obligations.FrameCommandsTakeTheCommonStep := by
  intro i s hi
  rw [exec_of_ne_start hi, sinkWrite_eq_afterWrite]

/-- R36, R77: a frame command requests the write of its word, however the word is spelt, and its whole
effect is the common step with it. -/
theorem request_and_exec_of_encode_eq {i : Instr} {f : Frame} (hi : i ≠ .start)
    (hencode : encode i = f) :
    i.request = .write f ∧ ∀ s, exec i s = .next (afterWrite f s) := by
  subst hencode
  exact ⟨request_of_ne_start hi, fun s => frameCommandsTakeTheCommonStep i s hi⟩

/-- Settles O27: the word of a frame command is a `packFrame` of a body that fills its opcode's length,
and the word is what the command requests and writes. -/
theorem packFrameLaw : Obligations.PackFrameLaw := by
  refine ⟨fun _ _ => rfl, fun i hi => ?_⟩
  obtain ⟨op, body, hbody, hencode⟩ := encode_eq_packFrame hi
  have hlen : (packFrame op body).length = op.frameLen := (packFrame_length op body).trans hbody
  have hbyte : (packFrame op body)[2]? = some (BitVec.ofNat 8 (packFrame op body).length) := by
    rw [hlen, packFrame_getElem?_two]
  obtain ⟨hrequest, hexec⟩ := request_and_exec_of_encode_eq hi hencode
  exact ⟨op, body, hbody, hrequest, hlen, hbyte, hexec⟩

theorem lo8_eq_bits7to0 (v : Int) : lo8 v = bits7to0 v := by
  apply BitVec.eq_of_toNat_eq
  rw [lo8_toNat, bits7to0, BitVec.toNat_ofNat]
  omega

theorem hi8_eq_bits15to8 (v : Int) : hi8 v = bits15to8 v := by
  apply BitVec.eq_of_toNat_eq
  rw [hi8_toNat, bits15to8, BitVec.toNat_ofNat]
  omega

theorem chan_eq_bits1to0 (out : Int) : chan out = bits1to0 out := by
  apply BitVec.eq_of_toNat_eq
  rw [chan_toNat, bits1to0, BitVec.toNat_ofNat]
  omega

/-- R54, R76: the ten bytes of the shared routine, for every argument. -/
theorem buildTrackControlFrame_eq (track : Int) (sub : SubCode) (out : Int) (flags : Byte) :
    buildTrackControlFrame track sub out flags =
      [0xF0, 0xAA, 0x0A, 0x03, sub.byte, bits7to0 track, bits15to8 track, bits1to0 out, flags,
        0x55] := by
  rw [← lo8_eq_bits7to0, ← hi8_eq_bits15to8, ← chan_eq_bits1to0]
  rfl

/-- R60, R76: the word of opcode TRACK_CONTROL is the shared routine's, with the arguments of R84 to
R90; the words of the other instructions have another opcode, or none. -/
theorem encode_eq_buildTrackControlFrame {i : Instr} (hop : (encode i)[3]? = some 0x03) :
    ∃ track sub out flags, encode i = buildTrackControlFrame track sub out flags := by
  cases i with
  | playTrackSolo trk out lock => exact ⟨trk, .playSolo, out, lockFlags lock, rfl⟩
  | playTrackPoly trk out lock => exact ⟨trk, .playPoly, out, lockFlags lock, rfl⟩
  | loadTrack trk out lock => exact ⟨trk, .load, out, lockFlags lock, rfl⟩
  | stopTrack trk => exact ⟨trk, .stop, 0, 0x00, rfl⟩
  | pauseTrack trk => exact ⟨trk, .pause, 0, 0x00, rfl⟩
  | resumeTrack trk => exact ⟨trk, .resume, 0, 0x00, rfl⟩
  | setTrackLoopOn trk => exact ⟨trk, .loopOn, 0, 0x00, rfl⟩
  | setTrackLoopOff trk => exact ⟨trk, .loopOff, 0, 0x00, rfl⟩
  | start | setMasterGain | setSampleRateOffset | stopAllTracks | resumeAllInSync | setTrackGain
  | fadeTrack => simp [encode] at hop

/-- Settles O28: the routine's bytes, and the eight instructions whose word it builds; the word is what
each of them requests and writes. -/
theorem trackControlFramesShareOneRoutine : Obligations.TrackControlFramesShareOneRoutine := by
  refine ⟨buildTrackControlFrame_eq, fun i hop => ?_⟩
  have hi : i ≠ .start := by
    rintro rfl
    simp [encode] at hop
  obtain ⟨track, sub, out, flags, hencode⟩ := encode_eq_buildTrackControlFrame hop
  exact ⟨track, sub, out, flags, request_and_exec_of_encode_eq hi hencode⟩

end Sys2Proof.Machine

/-! The output-bus commands: both write the `F8` frame of R52, with a channel and a signed 16-bit value
as its body, and differ only in the opcode. -/

namespace Sys2Proof.Machine

/-- R52, R74: the eight bytes of an `F8` frame, for every channel and value. -/
theorem packFrame_chan_splitLE16 (op : Opcode) (out v : Int) :
    packFrame op ([chan out] ++ splitLE16 v) =
      [0xF0, 0xAA, BitVec.ofNat 8 op.frameLen, op.byte, bits1to0 out, bits7to0 v, bits15to8 v,
        0x55] := by
  rw [← chan_eq_bits1to0, ← lo8_eq_bits7to0, ← hi8_eq_bits15to8]
  rfl

theorem exec_setMasterGain (out gain : Int) (s : State) :
    exec (.setMasterGain out gain) s =
      sinkWrite (packFrame .masterVolume ([chan out] ++ splitLE16 gain)) s := rfl

theorem exec_setSampleRateOffset (out offset : Int) (s : State) :
    exec (.setSampleRateOffset out offset) s =
      sinkWrite (packFrame .sampleRateOffset ([chan out] ++ splitLE16 offset)) s := rfl

/-- Settles O2: the meaning writes the `F8` frame of opcode MASTER_VOLUME, and that write is the common
step. -/
theorem setMasterGainResult : Obligations.SetMasterGainResult := by
  intro out gain s
  rw [exec_setMasterGain, packFrame_chan_splitLE16, sinkWrite_eq_afterWrite]
  rfl

/-- Settles O3: the meaning writes the `F8` frame of opcode SAMPLE_RATE_OFFSET, and that write is the
common step. -/
theorem setSampleRateOffsetResult : Obligations.SetSampleRateOffsetResult := by
  intro out offset s
  rw [exec_setSampleRateOffset, packFrame_chan_splitLE16, sinkWrite_eq_afterWrite]
  rfl

end Sys2Proof.Machine

/-! The track-control commands: each writes the ten bytes of the shared routine (R76), so a command's
result is the routine's arguments. R87 and R90 pass the constant channel and flags. -/

namespace Sys2Proof.Machine

/-- R9, R84: the flags byte of a lock bit, in the statements' spelling. -/
theorem lockFlags_eq_truthByte (lock : Bool) : lockFlags lock = truthByte lock := by
  cases lock <;> rfl

/-- R76, R77: the write of a frame of the shared routine is the common step with its ten bytes. -/
theorem sinkWrite_buildTrackControlFrame (trk : Int) (sub : SubCode) (out : Int) (flags : Byte)
    (s : State) :
    sinkWrite (buildTrackControlFrame trk sub out flags) s =
      .next (afterWrite [0xF0, 0xAA, 0x0A, 0x03, sub.byte, bits7to0 trk, bits15to8 trk,
        bits1to0 out, flags, 0x55] s) := by
  rw [buildTrackControlFrame_eq, sinkWrite_eq_afterWrite]

/-- R87, R90: the commands that address no output send the channel byte 00. -/
theorem sinkWrite_buildTrackControlFrame_unrouted (trk : Int) (sub : SubCode) (s : State) :
    sinkWrite (buildTrackControlFrame trk sub 0 0x00) s =
      .next (afterWrite [0xF0, 0xAA, 0x0A, 0x03, sub.byte, bits7to0 trk, bits15to8 trk,
        0x00, 0x00, 0x55] s) := by
  have hchannel : bits1to0 0 = 0x00 := by decide
  rw [sinkWrite_buildTrackControlFrame, hchannel]

theorem exec_playTrackSolo (trk out : Int) (lock : Bool) (s : State) :
    exec (.playTrackSolo trk out lock) s =
      sinkWrite (buildTrackControlFrame trk .playSolo out (lockFlags lock)) s := rfl

theorem exec_stopTrack (trk : Int) (s : State) :
    exec (.stopTrack trk) s = sinkWrite (buildTrackControlFrame trk .stop 0 0x00) s := rfl

theorem exec_setTrackLoopOn (trk : Int) (s : State) :
    exec (.setTrackLoopOn trk) s = sinkWrite (buildTrackControlFrame trk .loopOn 0 0x00) s := rfl

theorem exec_setTrackLoopOff (trk : Int) (s : State) :
    exec (.setTrackLoopOff trk) s = sinkWrite (buildTrackControlFrame trk .loopOff 0 0x00) s := rfl

/-- R90: `enable` selects the row of the table. -/
theorem toInstr_setTrackLoop (trk : Int) (enable : Bool) :
    (Cmd.setTrackLoop trk enable).toInstr =
      if enable then .setTrackLoopOn trk else .setTrackLoopOff trk := by
  cases enable with
  | false => rfl
  | true => rfl

/-- Settles O4: the meaning writes the routine's frame of sub-code PLAY_SOLO, with the lock bit as its
flags. -/
theorem playTrackSoloResult : Obligations.PlayTrackSoloResult := by
  intro trk out lock s
  rw [exec_playTrackSolo, sinkWrite_buildTrackControlFrame, lockFlags_eq_truthByte]
  rfl

/-- Settles O7: the meaning writes the routine's frame of sub-code STOP, addressed to no output. -/
theorem stopTrackResult : Obligations.StopTrackResult := by
  intro trk s
  rw [exec_stopTrack, sinkWrite_buildTrackControlFrame_unrouted]
  rfl

/-- Settles O10: the two rows write the routine's frame of sub-code LOOP_ON and LOOP_OFF, addressed to no
output, and `enable` selects the row. -/
theorem setTrackLoopResult : Obligations.SetTrackLoopResult := by
  intro trk s
  refine ⟨?on, ?off, toInstr_setTrackLoop trk⟩
  case on =>
    rw [exec_setTrackLoopOn, sinkWrite_buildTrackControlFrame_unrouted]
    rfl
  case off =>
    rw [exec_setTrackLoopOff, sinkWrite_buildTrackControlFrame_unrouted]
    rfl

end Sys2Proof.Machine

/-! The global commands: both write the `F5` frame of R51, the envelope around no body, and differ only
in the opcode. -/

namespace Sys2Proof.Machine

/-- R51, R74: the five bytes of an `F5` frame. -/
theorem packFrame_nil (op : Opcode) :
    packFrame op [] = [0xF0, 0xAA, BitVec.ofNat 8 op.frameLen, op.byte, 0x55] := rfl

theorem exec_stopAllTracks (s : State) :
    exec .stopAllTracks s = sinkWrite (packFrame .stopAll []) s := rfl

theorem exec_resumeAllInSync (s : State) :
    exec .resumeAllInSync s = sinkWrite (packFrame .resumeAllSync []) s := rfl

/-- Settles O11: the meaning writes the `F5` frame of opcode STOP_ALL, and that write is the common
step. -/
theorem stopAllTracksResult : Obligations.StopAllTracksResult := by
  intro s
  rw [exec_stopAllTracks, packFrame_nil, sinkWrite_eq_afterWrite]
  rfl

/-- Settles O12: the meaning writes the `F5` frame of opcode RESUME_ALL_SYNC, and that write is the
common step. -/
theorem resumeAllInSyncResult : Obligations.ResumeAllInSyncResult := by
  intro s
  rw [exec_resumeAllInSync, packFrame_nil, sinkWrite_eq_afterWrite]
  rfl

end Sys2Proof.Machine

/-! The track-level commands: their bodies are 16-bit fields (R53, R55), the track number and the gain
and, for `fadeTrack`, the time, followed there by the stop-at-end byte. -/

namespace Sys2Proof.Machine

/-- R70: the two bytes of a 16-bit field, low byte first, in the statements' notation (R9). -/
theorem splitLE16_eq_bits (v : Int) : splitLE16 v = [bits7to0 v, bits15to8 v] := by
  rw [← lo8_eq_bits7to0, ← hi8_eq_bits15to8]
  rfl

theorem boolByte_eq_truthByte (b : Bool) : boolByte b = truthByte b := by
  rw [← lockFlags_eq, lockFlags_eq_truthByte]

/-- R53, R93: the nine bytes of the `F9` frame, for every track and gain. -/
theorem frameSetTrackGain_eq (trk gain : Int) :
    frameSetTrackGain trk gain =
      [0xF0, 0xAA, 0x09, 0x08, bits7to0 trk, bits15to8 trk, bits7to0 gain, bits15to8 gain,
        0x55] := by
  rw [frameSetTrackGain, splitLE16_eq_bits, splitLE16_eq_bits]
  rfl

/-- R55, R94: the twelve bytes of the `F12` frame, for every operand. -/
theorem frameFadeTrack_eq (trk gain timeMs : Int) (stopAtEnd : Bool) :
    frameFadeTrack trk gain timeMs stopAtEnd =
      [0xF0, 0xAA, 0x0C, 0x0A, bits7to0 trk, bits15to8 trk, bits7to0 gain, bits15to8 gain,
        bits7to0 timeMs, bits15to8 timeMs, truthByte stopAtEnd, 0x55] := by
  rw [frameFadeTrack, splitLE16_eq_bits, splitLE16_eq_bits, splitLE16_eq_bits,
    boolByte_eq_truthByte]
  rfl

theorem exec_setTrackGain (trk gain : Int) (s : State) :
    exec (.setTrackGain trk gain) s = sinkWrite (frameSetTrackGain trk gain) s := rfl

theorem exec_fadeTrack (trk gain timeMs : Int) (stopAtEnd : Bool) (s : State) :
    exec (.fadeTrack trk gain timeMs stopAtEnd) s =
      sinkWrite (frameFadeTrack trk gain timeMs stopAtEnd) s := rfl

/-- Settles O13: the meaning writes the `F9` frame of opcode TRACK_VOLUME, and that write is the common
step. -/
theorem setTrackGainResult : Obligations.SetTrackGainResult := by
  intro trk gain s
  rw [exec_setTrackGain, frameSetTrackGain_eq, sinkWrite_eq_afterWrite]

/-- Settles O14: the meaning writes the `F12` frame of opcode TRACK_FADE, and that write is the common
step. -/
theorem fadeTrackResult : Obligations.FadeTrackResult := by
  intro trk gain timeMs stopAtEnd s
  rw [exec_fadeTrack, frameFadeTrack_eq, sinkWrite_eq_afterWrite]

end Sys2Proof.Machine

/-! Exceptions: no instruction fails of its own (R95), and a status is the sink's alone (R96). A step on a
command by value is that command's instruction run with the command taken from the port. -/

namespace Sys2Proof.Machine

section commandAtPort
variable {c : Cmd} {rest : List PortItem} {s : State}

/-- R18: a command by value is fetched under every word map, and the port keeps what waits behind it. -/
theorem fetch_of_port_cmd (map : CmdWordMap) (hport : s.port = .cmd c :: rest) :
    fetch map s = .command c.toInstr { s with port := rest } := by
  rw [fetch, hport]
  rfl

theorem step_of_port_cmd (hport : s.port = .cmd c :: rest) :
    step s = exec c.toInstr { s with port := rest } := by
  simp only [step, fetch_of_port_cmd Config.cmdWordMap hport]

end commandAtPort

/-- Settles O16: every instruction answers a next state, and a step on a command is its instruction run
behind the fetch, which leaves the rest of the port and counts one command. -/
theorem noCommandFails : Obligations.NoCommandFails := by
  refine ⟨exec_total, fun c rest s hport => ?_⟩
  obtain ⟨t, hexec⟩ := exec_total c.toInstr { s with port := rest }
  obtain ⟨hpos, -, -, -, hrest, -, -⟩ := exec_next hexec
  exact ⟨t, (step_of_port_cmd hport).trans hexec, hrest, hpos⟩

/-- Settles O17: the next state every instruction answers returns the sink's one answer, records it in
its one event, and has used up that answer only. -/
theorem sinkStatusReturnedUnmodified : Obligations.SinkStatusReturnedUnmodified := by
  intro i s
  obtain ⟨t, hexec⟩ := exec_total i s
  obtain ⟨-, hhist, -, hreturned, -, hanswers, hdraws⟩ := exec_next hexec
  exact ⟨t, hexec, hreturned, hhist, hdraws, hanswers⟩

end Sys2Proof.Machine

/-! The byte fields: a reader takes back from the two bytes of a 16-bit field (R79), and from a channel or
truth byte, the value reduced as the field reduces it; so a byte field holds exactly that reduced value. -/

namespace Sys2Proof.Machine

/-- R31, R79: joining the two bytes of a value gives it modulo 65536. -/
theorem joinLE16_lo8_hi8 (v : Int) : joinLE16 (lo8 v) (hi8 v) = (v % 65536).toNat := by
  rw [joinLE16_eq_add, lo8_toNat, hi8_toNat]
  omega

theorem readU16_lo8_hi8 (v : Int) : readU16 (lo8 v) (hi8 v) = wrapU16 v := by
  rw [readU16, joinLE16_lo8_hi8, wrapU16]
  omega

theorem readS16_lo8_hi8 (v : Int) : readS16 (lo8 v) (hi8 v) = wrapS16 v := by
  rw [readS16, joinLE16_lo8_hi8, wrapS16]
  split <;> split <;> omega

theorem lo8_eq_of_emod_eq {v w : Int} (h : v % 65536 = w % 65536) : lo8 v = lo8 w := by
  apply BitVec.eq_of_toNat_eq
  rw [lo8_toNat, lo8_toNat]
  omega

theorem hi8_eq_of_emod_eq {v w : Int} (h : v % 65536 = w % 65536) : hi8 v = hi8 w := by
  apply BitVec.eq_of_toNat_eq
  rw [hi8_toNat, hi8_toNat]
  omega

theorem chan_eq_of_emod_eq {v w : Int} (h : v % 4 = w % 4) : chan v = chan w := by
  rw [chan, chan, h]

theorem splitLE16_eq_iff (v w : Int) : splitLE16 v = splitLE16 w ↔ v % 65536 = w % 65536 := by
  constructor
  · intro h
    obtain ⟨hlo, hhi⟩ : lo8 v = lo8 w ∧ hi8 v = hi8 w := by simpa [splitLE16] using h
    have hread : wrapU16 v = wrapU16 w := by
      rw [← readU16_lo8_hi8, ← readU16_lo8_hi8, hlo, hhi]
    exact hread
  · intro h
    rw [splitLE16, splitLE16, lo8_eq_of_emod_eq h, hi8_eq_of_emod_eq h]

theorem wrapS16_emod (v : Int) : wrapS16 v % 65536 = v % 65536 := by
  unfold wrapS16
  split <;> omega

theorem wrapS16_of_isS16 {v : Int} (h : isS16 v = true) : wrapS16 v = v := by
  obtain ⟨hlow, hhigh⟩ := of_decide_eq_true h
  unfold wrapS16
  split <;> omega

theorem wrapU16_of_isU16 {v : Int} (h : isU16 v = true) : wrapU16 v = v := by
  obtain ⟨hlow, hhigh⟩ := of_decide_eq_true h
  exact Int.emod_eq_of_lt hlow hhigh

theorem emod_four_of_isChan {v : Int} (h : isChan v = true) : v % 4 = v := by
  obtain ⟨hlow, hhigh⟩ := of_decide_eq_true h
  exact Int.emod_eq_of_lt hlow hhigh

/-- R71: masking a two's-complement number of at least 2 bits with 3 leaves it modulo 4. -/
theorem toNat_ofInt_and_three (out : Int) {n : Nat} (hn : 2 ≤ n) :
    (BitVec.ofInt n out &&& BitVec.ofNat n 3).toNat = (out % 4).toNat := by
  have hdvd : (4 : Int) ∣ ((2 ^ n : Nat) : Int) := by
    exact_mod_cast Nat.pow_dvd_pow 2 hn
  have hpow : 4 ≤ 2 ^ n := Nat.pow_le_pow_right Nat.zero_lt_two hn
  have hmask : 3 % 2 ^ n = 2 ^ 2 - 1 := Nat.mod_eq_of_lt (by omega)
  rw [BitVec.toNat_and, BitVec.toNat_ofInt, BitVec.toNat_ofNat, hmask, Nat.and_two_pow_sub_one_eq_mod]
  have hmod := Int.emod_emod_of_dvd out hdvd
  have hnonneg : 0 ≤ out % ((2 ^ n : Nat) : Int) := Int.emod_nonneg _ (by omega)
  omega

/-- Settles O30: the joined bytes are the value modulo 65536, whichever way the join is written. -/
theorem sixteenBitFieldRoundTrip : Obligations.SixteenBitFieldRoundTrip :=
  fun v => ⟨joinLE16_lo8_hi8 v, rfl, joinLE16_lo8_hi8 v⟩

/-- Settles O31: the signed reading is the one number of the signed range that differs from the value by a
multiple of 65536. -/
theorem signedReadingOfAField : Obligations.SignedReadingOfAField := by
  intro v
  rw [readS16_lo8_hi8]
  obtain ⟨hlow, hhigh⟩ := of_decide_eq_true (Laws.isS16_wrapS16 v)
  have hmod := wrapS16_emod v
  refine ⟨fun h₁ h₂ => wrapS16_of_isS16 (decide_eq_true ⟨h₁, by omega⟩), hlow, by omega, by omega⟩

/-- Settles O32: the mask at any width and the channel byte are both `out` modulo 4. -/
theorem channelByteIsTheMask : Obligations.ChannelByteIsTheMask := by
  intro out n hn
  rw [chan_toNat, toNat_ofInt_and_three out hn]
  omega

/-- Settles O33: a field's two bytes are the same exactly for values that agree modulo 65536. -/
theorem fieldBytesDependOnLow16Bits : Obligations.FieldBytesDependOnLow16Bits := by
  intro v w
  have hmod : v % 65536 = v % 65536 % 65536 := (Int.emod_emod_of_dvd v (dvd_refl _)).symm
  exact ⟨lo8_eq_of_emod_eq hmod, hi8_eq_of_emod_eq hmod, splitLE16_eq_iff v w⟩

end Sys2Proof.Machine

/-! The caller's `int` (R7, D3): narrowing a value to 16 bits or more keeps it modulo 65536 and modulo 4,
which is all that a frame holds of an operand. -/

namespace Sys2Proof.Machine

/-- Two's complement of `n` bits keeps a value modulo every divisor of `2 ^ n`. -/
theorem hostInt_emod {n k : Nat} (hk : k ≤ n) (v : Int) :
    hostInt n v % (2 ^ k : Nat) = v % (2 ^ k : Nat) := by
  have hdvd : ((2 ^ k : Nat) : Int) ∣ ((2 ^ n : Nat) : Int) := by
    exact_mod_cast Nat.pow_dvd_pow 2 hk
  rw [hostInt, BitVec.toInt_ofInt, ← Int.emod_emod_of_dvd _ hdvd, Int.bmod_emod,
    Int.emod_emod_of_dvd _ hdvd]

theorem lo8_hostInt {n : Nat} (hn : 16 ≤ n) (v : Int) : lo8 (hostInt n v) = lo8 v :=
  lo8_eq_of_emod_eq (hostInt_emod hn v)

theorem hi8_hostInt {n : Nat} (hn : 16 ≤ n) (v : Int) : hi8 (hostInt n v) = hi8 v :=
  hi8_eq_of_emod_eq (hostInt_emod hn v)

theorem chan_hostInt {n : Nat} (hn : 16 ≤ n) (v : Int) : chan (hostInt n v) = chan v :=
  chan_eq_of_emod_eq (hostInt_emod (k := 2) (by omega) v)

theorem narrow_eq_start_iff (n : Nat) (i : Instr) : i.narrow n = .start ↔ i = .start := by
  cases i <;> simp [Instr.narrow]

/-- R7: the word of an instruction does not depend on the width of the caller's `int`. -/
theorem encode_narrow {n : Nat} (hn : 16 ≤ n) (i : Instr) : encode (i.narrow n) = encode i := by
  cases i <;> simp [Instr.narrow, encode, lo8_hostInt hn, hi8_hostInt hn, chan_hostInt hn]

/-- Settles O23: the narrowed instruction has the same word, and the word is all that `exec` uses. -/
theorem hostIntWidthIsIrrelevant : Obligations.HostIntWidthIsIrrelevant := by
  intro n i s hn
  by_cases hi : i = .start
  · rw [hi]
    rfl
  · have hnarrow : i.narrow n ≠ .start := fun h => hi ((narrow_eq_start_iff n i).1 h)
    rw [exec_of_ne_start hnarrow, exec_of_ne_start hi, encode_narrow hn]

end Sys2Proof.Machine

/-! Reading back a word: the decoder takes from the word of any instruction the instruction with its
operands reduced (R63), which is the instruction itself when every operand fits its field. -/

namespace Sys2Proof.Machine

/-- R57: the reserved bits of a channel byte are clear exactly when it is one of the four channels. -/
theorem and_channelMask_eq_zero_iff (c : Byte) : c &&& 0xFC = 0 ↔ c.toNat < 4 := by
  revert c
  decide

/-- R56, R58: the reserved bits of a truth byte are clear exactly when it is 00 or 01. -/
theorem and_truthMask_eq_zero_iff (b : Byte) : b &&& 0xFE = 0 ↔ b = boolByte (b == 0x01) := by
  revert b
  decide

theorem chan_toNat_cast (out : Int) : ((chan out).toNat : Int) = out % 4 := by
  rw [chan_toNat]
  omega

theorem chan_and_channelMask (out : Int) : chan out &&& 0xFC#8 = 0#8 := by
  refine (and_channelMask_eq_zero_iff _).2 ?_
  rw [chan_toNat]
  omega

theorem boolByte_and_truthMask (b : Bool) : boolByte b &&& 0xFE#8 = 0#8 := by
  cases b <;> rfl

theorem boolByte_beq_one (b : Bool) : (boolByte b == 0x01#8) = b := by
  cases b <;> rfl

/-- R47, R48: behind an envelope with the right length the opcode selects what is read. -/
theorem decode_envelope {len op : Byte} {rest : Frame} (hlen : len.toNat = rest.length + 4) :
    decode (0xF0 :: 0xAA :: len :: op :: rest) = decodeOpcode op rest := by
  simp [decode, startMarker1, startMarker2, hlen]

theorem decodeF8_encoded (mk : Int → Int → Instr) (out v : Int) :
    decodeF8 mk [chan out, lo8 v, hi8 v, 0x55] = .ok (mk (out % 4) (wrapS16 v)) := by
  simp [decodeF8, endMarker, chan_and_channelMask, chan_toNat_cast, readS16_lo8_hi8]

theorem decodeF9_encoded (trk gain : Int) :
    decodeF9 [lo8 trk, hi8 trk, lo8 gain, hi8 gain, 0x55] =
      .ok (.setTrackGain (wrapU16 trk) (wrapS16 gain)) := by
  simp [decodeF9, endMarker, readU16_lo8_hi8, readS16_lo8_hi8]

theorem decodeF12_encoded (trk gain timeMs : Int) (stopAtEnd : Bool) :
    decodeF12 [lo8 trk, hi8 trk, lo8 gain, hi8 gain, lo8 timeMs, hi8 timeMs, boolByte stopAtEnd,
      0x55] = .ok (.fadeTrack (wrapU16 trk) (wrapS16 gain) (wrapU16 timeMs) stopAtEnd) := by
  simp [decodeF12, endMarker, boolByte_and_truthMask, boolByte_beq_one, readU16_lo8_hi8,
    readS16_lo8_hi8]

theorem decodeF10_encoded (sub : Byte) (trk : Int) (c fl : Byte) :
    decodeF10 [sub, lo8 trk, hi8 trk, c, fl, 0x55] = decodeSubCode sub (wrapU16 trk) c fl := by
  simp [decodeF10, endMarker, readU16_lo8_hi8]

theorem decodeRouted_encoded (mk : Int → Int → Bool → Instr) (trk out : Int) (lock : Bool) :
    decodeRouted mk trk (chan out) (lockFlags lock) = .ok (mk trk (out % 4) lock) := by
  simp [decodeRouted, lockFlags_eq, chan_and_channelMask, chan_toNat_cast, boolByte_and_truthMask,
    boolByte_beq_one]

theorem decodeUnrouted_encoded (mk : Int → Instr) (trk : Int) :
    decodeUnrouted mk trk 0x00 0x00 = .ok (mk trk) := rfl

/-- R50, R54: a TRACK_CONTROL word is read by its sub-code. -/
theorem decode_trackControl (sub : Byte) (trk : Int) (c fl : Byte) :
    decode [0xF0, 0xAA, 0x0A, 0x03, sub, lo8 trk, hi8 trk, c, fl, 0x55] =
      decodeSubCode sub (wrapU16 trk) c fl :=
  (decode_envelope rfl).trans (decodeF10_encoded sub trk c fl)

/-- R63, R65: the decoder reads every instruction's word as the reduced instruction. -/
theorem decode_encode (i : Instr) : decode (encode i) = .ok i.canon := by
  cases i with
  | start => rfl
  | setMasterGain out gain => exact (decode_envelope rfl).trans (decodeF8_encoded _ out gain)
  | setSampleRateOffset out offset =>
    exact (decode_envelope rfl).trans (decodeF8_encoded _ out offset)
  | playTrackSolo trk out lock | playTrackPoly trk out lock | loadTrack trk out lock =>
    exact (decode_trackControl _ trk _ _).trans (decodeRouted_encoded _ _ out lock)
  | stopTrack trk | pauseTrack trk | resumeTrack trk | setTrackLoopOn trk | setTrackLoopOff trk =>
    exact (decode_trackControl _ trk _ _).trans (decodeUnrouted_encoded _ _)
  | stopAllTracks | resumeAllInSync => rfl
  | setTrackGain trk gain => exact (decode_envelope rfl).trans (decodeF9_encoded trk gain)
  | fadeTrack trk gain timeMs stopAtEnd =>
    exact (decode_envelope rfl).trans (decodeF12_encoded trk gain timeMs stopAtEnd)

/-- R63: reducing changes no operand that fits its field. -/
theorem canon_of_wellFormed {i : Instr} (h : i.wellFormed = true) : i.canon = i := by
  cases i <;>
    simp_all [Instr.wellFormed, Instr.canon, wrapU16_of_isU16, wrapS16_of_isS16,
      emod_four_of_isChan]

/-- Settles O36: the decoder reads the reduced instruction, and a well-formed one is its own reduced
form. -/
theorem decodeOfEncode : Obligations.DecodeOfEncode := by
  intro i hwf
  rw [decode_encode, canon_of_wellFormed hwf]

end Sys2Proof.Machine

/-! Writing back a reading: what the decoder accepts is the word of the instruction it gives, because each
operand it reads has the bytes it was read from. -/

namespace Sys2Proof.Machine

theorem lo8_readU16 (lo hi : Byte) : lo8 (readU16 lo hi) = lo := by
  apply BitVec.eq_of_toNat_eq
  have := lo.isLt
  rw [lo8_toNat, readU16, joinLE16_eq_add]
  omega

theorem hi8_readU16 (lo hi : Byte) : hi8 (readU16 lo hi) = hi := by
  apply BitVec.eq_of_toNat_eq
  have := lo.isLt
  have := hi.isLt
  rw [hi8_toNat, readU16, joinLE16_eq_add]
  omega

/-- R79: the two readings of a pair agree modulo 65536. -/
theorem readS16_emod (lo hi : Byte) : readS16 lo hi % 65536 = readU16 lo hi % 65536 := by
  unfold readS16 readU16
  split <;> omega

theorem lo8_readS16 (lo hi : Byte) : lo8 (readS16 lo hi) = lo :=
  (lo8_eq_of_emod_eq (readS16_emod lo hi)).trans (lo8_readU16 lo hi)

theorem hi8_readS16 (lo hi : Byte) : hi8 (readS16 lo hi) = hi :=
  (hi8_eq_of_emod_eq (readS16_emod lo hi)).trans (hi8_readU16 lo hi)

theorem chan_toNat_of_masked {c : Byte} (hc : c &&& 0xFC = 0) : chan c.toNat = c := by
  apply BitVec.eq_of_toNat_eq
  have := (and_channelMask_eq_zero_iff c).1 hc
  rw [chan_toNat]
  omega

theorem boolByte_beq_of_masked {b : Byte} (hb : b &&& 0xFE = 0) : boolByte (b == 0x01) = b :=
  ((and_truthMask_eq_zero_iff b).1 hb).symm

theorem isU16_readU16 (lo hi : Byte) : isU16 (readU16 lo hi) = true := by
  apply decide_eq_true
  have := joinLE16_lt lo hi
  rw [readU16]
  omega

theorem isS16_readS16 (lo hi : Byte) : isS16 (readS16 lo hi) = true := by
  apply decide_eq_true
  have := joinLE16_lt lo hi
  unfold readS16
  split <;> omega

theorem isChan_of_masked {c : Byte} (hc : c &&& 0xFC = 0) : isChan c.toNat = true := by
  apply decide_eq_true
  have := (and_channelMask_eq_zero_iff c).1 hc
  omega

/-- `i` is the well-formed instruction whose word is `f`. -/
def IsReadingOf (i : Instr) (f : Frame) : Prop := encode i = f ∧ i.wellFormed = true

theorem isReadingOf_of_decodeF5 {i j : Instr} {op : Byte} {rest : Frame}
    (hencode : encode j = [0xF0, 0xAA, 0x05, op, 0x55]) (hwf : j.wellFormed = true)
    (h : decodeF5 j rest = .ok i) :
    IsReadingOf i (0xF0 :: 0xAA :: BitVec.ofNat 8 (rest.length + 4) :: op :: rest) := by
  obtain ⟨rfl, rfl⟩ := decodeF5_ok h
  exact ⟨hencode, hwf⟩

theorem isReadingOf_of_decodeF8 {i : Instr} {mk : Int → Int → Instr} {op : Byte} {rest : Frame}
    (hencode : ∀ out v, encode (mk out v) = [0xF0, 0xAA, 0x08, op, chan out, lo8 v, hi8 v, 0x55])
    (hwf : ∀ out v, (mk out v).wellFormed = (isChan out && isS16 v))
    (h : decodeF8 mk rest = .ok i) :
    IsReadingOf i (0xF0 :: 0xAA :: BitVec.ofNat 8 (rest.length + 4) :: op :: rest) := by
  obtain ⟨c, lo, hi, rfl, hc, rfl⟩ := decodeF8_ok h
  constructor
  · rw [hencode, chan_toNat_of_masked hc, lo8_readS16, hi8_readS16]
    rfl
  · rw [hwf, isChan_of_masked hc, isS16_readS16]
    rfl

theorem isReadingOf_of_decodeF9 {i : Instr} {rest : Frame} (h : decodeF9 rest = .ok i) :
    IsReadingOf i (0xF0 :: 0xAA :: BitVec.ofNat 8 (rest.length + 4) :: 0x08 :: rest) := by
  obtain ⟨tl, th, gl, gh, rfl, rfl⟩ := decodeF9_ok h
  constructor
  · rw [encode, lo8_readU16, hi8_readU16, lo8_readS16, hi8_readS16]
    rfl
  · rw [Instr.wellFormed, isU16_readU16, isS16_readS16]
    rfl

theorem isReadingOf_of_decodeF12 {i : Instr} {rest : Frame} (h : decodeF12 rest = .ok i) :
    IsReadingOf i (0xF0 :: 0xAA :: BitVec.ofNat 8 (rest.length + 4) :: 0x0A :: rest) := by
  obtain ⟨tl, th, gl, gh, ml, mh, b, rfl, hb, rfl⟩ := decodeF12_ok h
  constructor
  · rw [encode, lo8_readU16, hi8_readU16, lo8_readS16, hi8_readS16, lo8_readU16, hi8_readU16,
      boolByte_beq_of_masked hb]
    rfl
  · rw [Instr.wellFormed, isU16_readU16, isS16_readS16, isU16_readU16]
    rfl

section trackControl
variable {i : Instr} {sub tl th c fl : Byte}

theorem isReadingOf_of_decodeRouted {mk : Int → Int → Bool → Instr}
    (hencode : ∀ trk out lock, encode (mk trk out lock) =
      [0xF0, 0xAA, 0x0A, 0x03, sub, lo8 trk, hi8 trk, chan out, lockFlags lock, 0x55])
    (hwf : ∀ trk out lock, (mk trk out lock).wellFormed = (isU16 trk && isChan out))
    (h : decodeRouted mk (readU16 tl th) c fl = .ok i) :
    IsReadingOf i [0xF0, 0xAA, 0x0A, 0x03, sub, tl, th, c, fl, 0x55] := by
  obtain ⟨hc, hfl, rfl⟩ := decodeRouted_ok h
  constructor
  · rw [hencode, lo8_readU16, hi8_readU16, chan_toNat_of_masked hc, lockFlags_eq,
      boolByte_beq_of_masked hfl]
  · rw [hwf, isU16_readU16, isChan_of_masked hc]
    rfl

theorem isReadingOf_of_decodeUnrouted {mk : Int → Instr}
    (hencode : ∀ trk, encode (mk trk) =
      [0xF0, 0xAA, 0x0A, 0x03, sub, lo8 trk, hi8 trk, 0x00, 0x00, 0x55])
    (hwf : ∀ trk, (mk trk).wellFormed = isU16 trk)
    (h : decodeUnrouted mk (readU16 tl th) c fl = .ok i) :
    IsReadingOf i [0xF0, 0xAA, 0x0A, 0x03, sub, tl, th, c, fl, 0x55] := by
  obtain ⟨rfl, rfl, rfl⟩ := decodeUnrouted_ok h
  constructor
  · rw [hencode, lo8_readU16, hi8_readU16]
  · rw [hwf, isU16_readU16]

/-- R50: each sub-code gives the operation whose word has it. -/
theorem isReadingOf_of_decodeSubCode (h : decodeSubCode sub (readU16 tl th) c fl = .ok i) :
    IsReadingOf i [0xF0, 0xAA, 0x0A, 0x03, sub, tl, th, c, fl, 0x55] := by
  unfold decodeSubCode at h
  split_ifs at h <;> subst sub
  · exact isReadingOf_of_decodeRouted (fun _ _ _ => rfl) (fun _ _ _ => rfl) h
  · exact isReadingOf_of_decodeRouted (fun _ _ _ => rfl) (fun _ _ _ => rfl) h
  · exact isReadingOf_of_decodeUnrouted (fun _ => rfl) (fun _ => rfl) h
  · exact isReadingOf_of_decodeUnrouted (fun _ => rfl) (fun _ => rfl) h
  · exact isReadingOf_of_decodeUnrouted (fun _ => rfl) (fun _ => rfl) h
  · exact isReadingOf_of_decodeUnrouted (fun _ => rfl) (fun _ => rfl) h
  · exact isReadingOf_of_decodeUnrouted (fun _ => rfl) (fun _ => rfl) h
  · exact isReadingOf_of_decodeRouted (fun _ _ _ => rfl) (fun _ _ _ => rfl) h

end trackControl

theorem isReadingOf_of_decodeF10 {i : Instr} {rest : Frame} (h : decodeF10 rest = .ok i) :
    IsReadingOf i (0xF0 :: 0xAA :: BitVec.ofNat 8 (rest.length + 4) :: 0x03 :: rest) := by
  obtain ⟨sub, tl, th, c, fl, rfl, hsub⟩ := decodeF10_ok h
  exact isReadingOf_of_decodeSubCode hsub

/-- R49: each opcode gives an instruction whose word has it. -/
theorem isReadingOf_of_decodeOpcode {i : Instr} {op : Byte} {rest : Frame}
    (h : decodeOpcode op rest = .ok i) :
    IsReadingOf i (0xF0 :: 0xAA :: BitVec.ofNat 8 (rest.length + 4) :: op :: rest) := by
  unfold decodeOpcode at h
  split_ifs at h <;> subst op
  · exact isReadingOf_of_decodeF10 h
  · exact isReadingOf_of_decodeF5 rfl rfl h
  · exact isReadingOf_of_decodeF8 (fun _ _ => rfl) (fun _ _ => rfl) h
  · exact isReadingOf_of_decodeF9 h
  · exact isReadingOf_of_decodeF12 h
  · exact isReadingOf_of_decodeF5 rfl rfl h
  · exact isReadingOf_of_decodeF8 (fun _ _ => rfl) (fun _ _ => rfl) h

theorem isReadingOf_of_decode {f : Frame} {i : Instr} (h : decode f = .ok i) : IsReadingOf i f := by
  obtain ⟨rfl, rfl⟩ | ⟨len, op, rest, rfl, hlen, hop⟩ := decode_ok h
  · exact ⟨rfl, rfl⟩
  · have hbyte : len = BitVec.ofNat 8 (rest.length + 4) := by
      apply BitVec.eq_of_toNat_eq
      have hlt := len.isLt
      rw [BitVec.toNat_ofNat]
      simp only [List.length_cons] at hlen
      omega
    rw [hbyte]
    exact isReadingOf_of_decodeOpcode hop

/-- Settles O37: every format's reader gives the well-formed instruction that has the word it read. -/
theorem encodeOfDecode : Obligations.EncodeOfDecode :=
  fun _ _ h => isReadingOf_of_decode h

/-- R63: a reduced instruction has the word of the one it was reduced from. -/
theorem encode_canon (i : Instr) : encode i.canon = encode i :=
  (encodeOfDecode (encode i) i.canon (decode_encode i)).1

theorem canon_wellFormed (i : Instr) : i.canon.wellFormed = true :=
  (encodeOfDecode (encode i) i.canon (decode_encode i)).2

/-- Settles O38: the reading of a word, taken as what decodes, is well formed and has that word. -/
theorem decodeOfEncodeReduces : Obligations.DecodeOfEncodeReduces :=
  fun i => ⟨decode_encode i, canon_wellFormed i, encode_canon i, canon_of_wellFormed⟩

theorem canon_row (i : Instr) : i.canon.row = i.row := by
  cases i <;> rfl

theorem encode_eq_iff (i j : Instr) : encode i = encode j ↔ i.canon = j.canon := by
  constructor
  · intro h
    have hread : Except.ok (ε := DecodeError) i.canon = .ok j.canon := by
      rw [← decode_encode, ← decode_encode, h]
    exact Except.ok.inj hread
  · intro h
    rw [← encode_canon i, h, encode_canon]

theorem row_eq_of_encode_eq {i j : Instr} (h : encode i = encode j) : i.row = j.row := by
  rw [← canon_row i, (encode_eq_iff i j).1 h, canon_row]

/-- Settles O39: equal words are read as the same reduced command, and a reduced command has one word. -/
theorem sameFrameIffSameReducedCommand : Obligations.SameFrameIffSameReducedCommand :=
  fun i j => ⟨encode_eq_iff i j, row_eq_of_encode_eq⟩

end Sys2Proof.Machine

/-! The opcode table (R66): the instances of a row are exactly the words of the row's instructions. The rows
of one format differ in constant bytes only, so each format's pattern and mask are read once. -/

namespace Sys2Proof.Machine

/-- Every pair of bytes is the two bytes of a 16-bit field. -/
theorem exists_bytes_iff_exists_field {P : Byte → Byte → Prop} :
    (∃ lo hi, P lo hi) ↔ ∃ v, P (lo8 v) (hi8 v) := by
  constructor
  · rintro ⟨lo, hi, h⟩
    exact ⟨readU16 lo hi, by rwa [lo8_readU16, hi8_readU16]⟩
  · exact fun ⟨v, h⟩ => ⟨lo8 v, hi8 v, h⟩

/-- The bytes with clear reserved bits are the channel bytes. -/
theorem exists_masked_iff_exists_chan {P : Byte → Prop} :
    (∃ c, P c ∧ c &&& 0xFC#8 = 0#8) ↔ ∃ out, P (chan out) := by
  constructor
  · rintro ⟨c, h, hc⟩
    exact ⟨c.toNat, by rwa [chan_toNat_of_masked hc]⟩
  · exact fun ⟨out, h⟩ => ⟨chan out, h, chan_and_channelMask out⟩

theorem exists_masked_iff_exists_boolByte {P : Byte → Prop} :
    (∃ b, P b ∧ b &&& 0xFE#8 = 0#8) ↔ ∃ l, P (boolByte l) := by
  constructor
  · rintro ⟨b, h, hb⟩
    exact ⟨b == 0x01, by rwa [boolByte_beq_of_masked hb]⟩
  · exact fun ⟨l, h⟩ => ⟨boolByte l, h, boolByte_and_truthMask l⟩

theorem isInstance_nil_iff (name : String) (f : Frame) :
    Row.isInstance ⟨name, [], []⟩ f = true ↔ f = [] := by
  simp [Row.isInstance]

/-- R66, byte by byte: the first byte agrees with the row under its mask, and so do the others. -/
theorem isInstance_cons_iff (name : String) (p m : Byte) (ps ms f : Frame) :
    Row.isInstance ⟨name, p :: ps, m :: ms⟩ f = true ↔
      ∃ b bs, f = b :: bs ∧ b &&& m = p ∧ Row.isInstance ⟨name, ps, ms⟩ bs = true := by
  cases f with
  | nil => simp [Row.isInstance]
  | cons b bs =>
    simp [Row.isInstance, and_left_comm]

theorem and_allOnes_byte (b : Byte) : b &&& 255#8 = b := BitVec.and_allOnes

section format
variable (name : String) (op sub : Byte) (f : Frame)

theorem isInstance_F5_iff :
    Row.isInstance ⟨name, [0xF0, 0xAA, 0x05, op, 0x55], [0xFF, 0xFF, 0xFF, 0xFF, 0xFF]⟩ f = true ↔
      f = [0xF0, 0xAA, 0x05, op, 0x55] := by
  simp [isInstance_cons_iff, isInstance_nil_iff, and_allOnes_byte]

theorem isInstance_F8_iff :
    Row.isInstance ⟨name, [0xF0, 0xAA, 0x08, op, 0x00, 0x00, 0x00, 0x55],
      [0xFF, 0xFF, 0xFF, 0xFF, 0xFC, 0x00, 0x00, 0xFF]⟩ f = true ↔
      ∃ out v, f = [0xF0, 0xAA, 0x08, op, chan out, lo8 v, hi8 v, 0x55] := by
  simp [isInstance_cons_iff, isInstance_nil_iff, and_allOnes_byte, exists_bytes_iff_exists_field,
    exists_masked_iff_exists_chan]

theorem isInstance_F9_iff :
    Row.isInstance ⟨name, [0xF0, 0xAA, 0x09, op, 0x00, 0x00, 0x00, 0x00, 0x55],
      [0xFF, 0xFF, 0xFF, 0xFF, 0x00, 0x00, 0x00, 0x00, 0xFF]⟩ f = true ↔
      ∃ trk gain, f = [0xF0, 0xAA, 0x09, op, lo8 trk, hi8 trk, lo8 gain, hi8 gain, 0x55] := by
  simp [isInstance_cons_iff, isInstance_nil_iff, and_allOnes_byte, exists_bytes_iff_exists_field]

theorem isInstance_F12_iff :
    Row.isInstance ⟨name, [0xF0, 0xAA, 0x0C, op, 0x00, 0x00, 0x00, 0x00, 0x00, 0x00, 0x00, 0x55],
      [0xFF, 0xFF, 0xFF, 0xFF, 0x00, 0x00, 0x00, 0x00, 0x00, 0x00, 0xFE, 0xFF]⟩ f = true ↔
      ∃ trk gain timeMs l, f = [0xF0, 0xAA, 0x0C, op, lo8 trk, hi8 trk, lo8 gain, hi8 gain,
        lo8 timeMs, hi8 timeMs, boolByte l, 0x55] := by
  simp [isInstance_cons_iff, isInstance_nil_iff, and_allOnes_byte, exists_bytes_iff_exists_field,
    exists_masked_iff_exists_boolByte, -Bool.exists_bool]

theorem isInstance_routed_iff :
    Row.isInstance ⟨name, [0xF0, 0xAA, 0x0A, 0x03, sub, 0x00, 0x00, 0x00, 0x00, 0x55],
      [0xFF, 0xFF, 0xFF, 0xFF, 0xFF, 0x00, 0x00, 0xFC, 0xFE, 0xFF]⟩ f = true ↔
      ∃ trk out l, f = [0xF0, 0xAA, 0x0A, 0x03, sub, lo8 trk, hi8 trk, chan out, boolByte l,
        0x55] := by
  constructor
  · intro h
    obtain ⟨tl, th, c, fl, rfl, hc, hfl⟩ : ∃ tl th c fl,
        f = [0xF0, 0xAA, 0x0A, 0x03, sub, tl, th, c, fl, 0x55] ∧ c &&& 0xFC = 0 ∧ fl &&& 0xFE = 0 := by
      simpa [isInstance_cons_iff, isInstance_nil_iff, and_allOnes_byte] using h
    exact ⟨readU16 tl th, c.toNat, fl == 0x01, by
      rw [lo8_readU16, hi8_readU16, chan_toNat_of_masked hc, boolByte_beq_of_masked hfl]⟩
  · rintro ⟨trk, out, l, rfl⟩
    simp [isInstance_cons_iff, isInstance_nil_iff, and_allOnes_byte, chan_and_channelMask,
      boolByte_and_truthMask]

theorem isInstance_unrouted_iff :
    Row.isInstance ⟨name, [0xF0, 0xAA, 0x0A, 0x03, sub, 0x00, 0x00, 0x00, 0x00, 0x55],
      [0xFF, 0xFF, 0xFF, 0xFF, 0xFF, 0x00, 0x00, 0xFF, 0xFF, 0xFF]⟩ f = true ↔
      ∃ trk, f = [0xF0, 0xAA, 0x0A, 0x03, sub, lo8 trk, hi8 trk, 0x00, 0x00, 0x55] := by
  simp [isInstance_cons_iff, isInstance_nil_iff, and_allOnes_byte, exists_bytes_iff_exists_field]

end format

theorem row_mem_opcodeTable (i : Instr) : i.row ∈ opcodeTable := by
  cases i <;> simp [Instr.row, opcodeTable]

/-- The rows of the table are the rows of the instructions. -/
theorem exists_row_of_mem_opcodeTable {r : Row} (hr : r ∈ opcodeTable) : ∃ i : Instr, i.row = r := by
  have htable : opcodeTable =
      [Instr.start, .setMasterGain 0 0, .setSampleRateOffset 0 0, .playTrackSolo 0 0 false,
        .playTrackPoly 0 0 false, .loadTrack 0 0 false, .stopTrack 0, .pauseTrack 0, .resumeTrack 0,
        .setTrackLoopOn 0, .setTrackLoopOff 0, .stopAllTracks, .resumeAllInSync, .setTrackGain 0 0,
        .fadeTrack 0 0 0 false].map Instr.row := rfl
  rw [htable] at hr
  obtain ⟨i, -, hrow⟩ := List.mem_map.1 hr
  exact ⟨i, hrow⟩

/-- R66: what matches an instruction's row is the word of an instruction of that row. -/
theorem exists_encode_of_isInstance {i : Instr} {f : Frame} (h : i.row.isInstance f = true) :
    ∃ j : Instr, j.row = i.row ∧ encode j = f := by
  cases i with
  | start => exact ⟨.start, rfl, ((isInstance_nil_iff _ f).1 h).symm⟩
  | stopAllTracks => exact ⟨.stopAllTracks, rfl, ((isInstance_F5_iff _ _ f).1 h).symm⟩
  | resumeAllInSync => exact ⟨.resumeAllInSync, rfl, ((isInstance_F5_iff _ _ f).1 h).symm⟩
  | setMasterGain _ _ =>
    obtain ⟨out, v, rfl⟩ := (isInstance_F8_iff _ _ f).1 h
    exact ⟨.setMasterGain out v, rfl, rfl⟩
  | setSampleRateOffset _ _ =>
    obtain ⟨out, v, rfl⟩ := (isInstance_F8_iff _ _ f).1 h
    exact ⟨.setSampleRateOffset out v, rfl, rfl⟩
  | playTrackSolo _ _ _ =>
    obtain ⟨trk, out, l, rfl⟩ := (isInstance_routed_iff _ _ f).1 h
    exact ⟨.playTrackSolo trk out l, rfl, rfl⟩
  | playTrackPoly _ _ _ =>
    obtain ⟨trk, out, l, rfl⟩ := (isInstance_routed_iff _ _ f).1 h
    exact ⟨.playTrackPoly trk out l, rfl, rfl⟩
  | loadTrack _ _ _ =>
    obtain ⟨trk, out, l, rfl⟩ := (isInstance_routed_iff _ _ f).1 h
    exact ⟨.loadTrack trk out l, rfl, rfl⟩
  | stopTrack _ =>
    obtain ⟨trk, rfl⟩ := (isInstance_unrouted_iff _ _ f).1 h
    exact ⟨.stopTrack trk, rfl, rfl⟩
  | pauseTrack _ =>
    obtain ⟨trk, rfl⟩ := (isInstance_unrouted_iff _ _ f).1 h
    exact ⟨.pauseTrack trk, rfl, rfl⟩
  | resumeTrack _ =>
    obtain ⟨trk, rfl⟩ := (isInstance_unrouted_iff _ _ f).1 h
    exact ⟨.resumeTrack trk, rfl, rfl⟩
  | setTrackLoopOn _ =>
    obtain ⟨trk, rfl⟩ := (isInstance_unrouted_iff _ _ f).1 h
    exact ⟨.setTrackLoopOn trk, rfl, rfl⟩
  | setTrackLoopOff _ =>
    obtain ⟨trk, rfl⟩ := (isInstance_unrouted_iff _ _ f).1 h
    exact ⟨.setTrackLoopOff trk, rfl, rfl⟩
  | setTrackGain _ _ =>
    obtain ⟨trk, gain, rfl⟩ := (isInstance_F9_iff _ _ f).1 h
    exact ⟨.setTrackGain trk gain, rfl, rfl⟩
  | fadeTrack _ _ _ _ =>
    obtain ⟨trk, gain, timeMs, l, rfl⟩ := (isInstance_F12_iff _ _ f).1 h
    exact ⟨.fadeTrack trk gain timeMs l, rfl, rfl⟩

/-- R66: the word of an instruction matches its row. -/
theorem row_isInstance_encode (i : Instr) : i.row.isInstance (encode i) = true := by
  cases i with
  | start | stopAllTracks | resumeAllInSync => rfl
  | setMasterGain out v | setSampleRateOffset out v =>
    exact (isInstance_F8_iff _ _ _).2 ⟨out, v, rfl⟩
  | playTrackSolo trk out l | playTrackPoly trk out l | loadTrack trk out l =>
    exact (isInstance_routed_iff _ _ _).2 ⟨trk, out, l, rfl⟩
  | stopTrack trk | pauseTrack trk | resumeTrack trk | setTrackLoopOn trk | setTrackLoopOff trk =>
    exact (isInstance_unrouted_iff _ _ _).2 ⟨trk, rfl⟩
  | setTrackGain trk gain => exact (isInstance_F9_iff _ _ _).2 ⟨trk, gain, rfl⟩
  | fadeTrack trk gain timeMs l => exact (isInstance_F12_iff _ _ _).2 ⟨trk, gain, timeMs, l, rfl⟩

/-- R66: the instances of a row of the table are the words of its instructions. -/
theorem isInstance_iff_exists_encode {r : Row} (hr : r ∈ opcodeTable) (f : Frame) :
    r.isInstance f = true ↔ ∃ i : Instr, i.row = r ∧ encode i = f := by
  constructor
  · intro h
    obtain ⟨i, rfl⟩ := exists_row_of_mem_opcodeTable hr
    exact exists_encode_of_isInstance h
  · rintro ⟨i, rfl, rfl⟩
    exact row_isInstance_encode i

/-- R66: the words that decode are the words of the instructions, and so the instances of the rows. -/
theorem decodes_iff_isInstance (f : Frame) :
    (∃ i, decode f = .ok i) ↔ ∃ r ∈ opcodeTable, r.isInstance f = true := by
  constructor
  · rintro ⟨i, h⟩
    obtain ⟨rfl, -⟩ := encodeOfDecode f i h
    exact ⟨i.row, row_mem_opcodeTable i, row_isInstance_encode i⟩
  · rintro ⟨r, hr, h⟩
    obtain ⟨i, -, rfl⟩ := (isInstance_iff_exists_encode hr f).1 h
    exact ⟨i.canon, decode_encode i⟩

/-- Settles O40: what matches a row is the word of an instruction of that row, and instructions with the
same word have the same row. -/
theorem frameIsInstanceOfItsRowOnly : Obligations.FrameIsInstanceOfItsRowOnly := by
  intro i r hr
  constructor
  · intro h
    obtain ⟨j, rfl, hword⟩ := (isInstance_iff_exists_encode hr _).1 h
    exact row_eq_of_encode_eq hword
  · rintro rfl
    exact row_isInstance_encode i

/-- Settles O41: what decodes is the word of the instruction it decodes to, which matches that
instruction's row; and what matches a row is the word of an instruction. -/
theorem decoderAcceptsExactlyTheTable : Obligations.DecoderAcceptsExactlyTheTable := by
  intro f
  refine ⟨decodes_iff_isInstance f, fun i h => ⟨row_mem_opcodeTable i, ?_⟩⟩
  obtain ⟨rfl, -⟩ := encodeOfDecode f i h
  exact row_isInstance_encode i

/-- Settles O42: the six words, each by evaluation of the decoder. -/
theorem specWordsDecode : Obligations.SpecWordsDecode := by
  unfold Obligations.SpecWordsDecode
  decide

end Sys2Proof.Machine

/-! What a frame can hold: only values of the field tables (R64), and 5 to 12 bytes (R48, R120). -/

namespace Sys2Proof.Machine

theorem chan_toNat_le (out : Int) : (chan out).toNat ≤ 3 := by
  rw [chan_toNat]
  omega

theorem boolByte_toNat_le (b : Bool) : (boolByte b).toNat ≤ 1 := by
  cases b <;> decide

/-- R64: the opcode of a word, and behind each opcode the sub-code, channel, flags and stop-at-end bytes,
are values of the field tables. -/
theorem encode_no_reserved_value {i : Instr} (hi : i ≠ .start) :
    ∃ op, (encode i)[3]? = some op ∧ op.toNat ∈ [3, 4, 5, 8, 10, 11, 12] ∧
      (op.toNat = 3 → ∃ sub c fl, (encode i)[4]? = some sub ∧ (encode i)[7]? = some c ∧
        (encode i)[8]? = some fl ∧ sub.toNat ≤ 7 ∧ c.toNat ≤ 3 ∧ fl.toNat ≤ 1) ∧
      (op.toNat = 5 ∨ op.toNat = 12 → ∃ c, (encode i)[4]? = some c ∧ c.toNat ≤ 3) ∧
      (op.toNat = 10 → ∃ b, (encode i)[10]? = some b ∧ b.toNat ≤ 1) := by
  cases i with
  | start => exact absurd rfl hi
  | setMasterGain | setSampleRateOffset => simp [encode, chan_toNat_le]
  | playTrackSolo | playTrackPoly | loadTrack =>
    simp [encode, chan_toNat_le, lockFlags_eq, boolByte_toNat_le]
  | stopTrack | pauseTrack | resumeTrack | setTrackLoopOn | setTrackLoopOff => simp [encode]
  | stopAllTracks | resumeAllInSync | setTrackGain => simp [encode]
  | fadeTrack => simp [encode, boolByte_toNat_le]

/-- Settles O29: the frame of the new event is the command's word, which holds no reserved value. -/
theorem reservedValuesAreNeverSent : Obligations.ReservedValuesAreNeverSent := by
  intro i s hi
  obtain ⟨st, t, hexec, hhist⟩ := exec_hist_of_ne_start hi s
  obtain ⟨op, hop⟩ := encode_no_reserved_value hi
  exact ⟨encode i, st, t, op, hexec, hhist, hop⟩

theorem frameLen_bounds (op : Opcode) : 5 ≤ op.frameLen ∧ op.frameLen ≤ 12 := by
  cases op <;> decide

/-- R48: the word of a frame command is a frame of its opcode's length. -/
theorem encode_length_eq_frameLen {i : Instr} (hi : i ≠ .start) :
    ∃ op : Opcode, (encode i).length = op.frameLen ∧
      (encode i)[2]? = some (BitVec.ofNat 8 op.frameLen) := by
  obtain ⟨op, body, hbody, hencode⟩ := encode_eq_packFrame hi
  rw [hencode]
  exact ⟨op, (packFrame_length op body).trans hbody, packFrame_getElem?_two op body⟩

/-- Settles O35: 8 bits for each byte of a frame of some opcode's length. -/
theorem frameDataBitsRange : Obligations.FrameDataBitsRange := by
  intro i hi
  obtain ⟨op, hlen, -⟩ := encode_length_eq_frameLen hi
  obtain ⟨hmin, hmax⟩ := frameLen_bounds op
  rw [frameDataBits, hlen]
  omega

end Sys2Proof.Machine

/-! The reader of a wire (R61, R62): a frame whose third byte counts its bytes is cut off whole, whatever
its body holds and whatever follows it. -/

namespace Sys2Proof.Machine

/-- The frame's length field counts its bytes, at least the five of the envelope. -/
def IsDelimited (f : Frame) : Prop :=
  5 ≤ f.length ∧ ∃ len : Byte, f[2]? = some len ∧ len.toNat = f.length

theorem isDelimited_encode {i : Instr} (hi : i ≠ .start) : IsDelimited (encode i) := by
  obtain ⟨op, hlen, hbyte⟩ := encode_length_eq_frameLen hi
  refine ⟨by rw [hlen]; exact (frameLen_bounds op).1, _, hbyte, ?_⟩
  rw [frameLen_byte_toNat, hlen]

theorem splitFrames_append {f : Frame} (hf : IsDelimited f) (fuel : Nat) (w : Frame) :
    splitFrames (fuel + 1) (f ++ w) = (splitFrames fuel w).map (f :: ·) := by
  obtain ⟨hmin, len, hbyte, hlen⟩ := hf
  have hbyte' : (f ++ w)[2]? = some len := by rw [List.getElem?_append_left (by omega), hbyte]
  have hroom : 5 ≤ len.toNat ∧ len.toNat ≤ (f ++ w).length := by
    rw [hlen, List.length_append]
    omega
  have htake : (f ++ w).take len.toNat = f := by rw [hlen, List.take_left]
  have hdrop : (f ++ w).drop len.toNat = w := by rw [hlen, List.drop_left]
  cases hcons : f ++ w with
  | nil => simp [hcons] at hbyte'
  | cons b bs =>
    rw [hcons] at hbyte' hroom htake hdrop
    simp only [splitFrames, hbyte', if_pos hroom, htake, hdrop]

theorem splitFrames_flatten {fs : List Frame} (hfs : ∀ f ∈ fs, IsDelimited f) {fuel : Nat}
    (hfuel : fs.length ≤ fuel) : splitFrames fuel fs.flatten = some fs := by
  induction fs generalizing fuel with
  | nil => cases fuel <;> rfl
  | cons f fs ih =>
    obtain ⟨fuel, rfl⟩ := Nat.exists_eq_add_one.2 (Nat.lt_of_lt_of_le (Nat.succ_pos _) hfuel)
    rw [List.flatten_cons, splitFrames_append (hfs f (by simp)),
      ih (fun g hg => hfs g (by simp [hg])) (by simpa using hfuel)]
    rfl

theorem length_le_length_flatten {fs : List Frame} (hfs : ∀ f ∈ fs, IsDelimited f) :
    fs.length ≤ fs.flatten.length := by
  induction fs with
  | nil => simp
  | cons f fs ih =>
    obtain ⟨hmin, -⟩ := hfs f (by simp)
    have := ih (fun g hg => hfs g (by simp [hg]))
    simp only [List.length_cons, List.flatten_cons, List.length_append]
    omega

theorem wireFrames_flatten {fs : List Frame} (hfs : ∀ f ∈ fs, IsDelimited f) :
    wireFrames fs.flatten = some fs :=
  splitFrames_flatten hfs (length_le_length_flatten hfs)

theorem decodeAll_map_encode (l : List Instr) : decodeAll (l.map encode) = some (l.map Instr.canon) := by
  induction l with
  | nil => rfl
  | cons i l ih => simp [decodeAll, decode_encode, ih]

/-- Settles O43: every word is delimited, so the reader cuts the wire at the words, and it decodes each. -/
theorem wireIsReadByItsLengthFields : Obligations.WireIsReadByItsLengthFields := by
  intro l hl
  have hdelimited : ∀ f ∈ l.map encode, IsDelimited f := by
    intro f hf
    obtain ⟨i, hi, rfl⟩ := List.mem_map.1 hf
    exact isDelimited_encode (hl i hi)
  have hframes := wireFrames_flatten hdelimited
  refine ⟨hframes, ?_⟩
  rw [readWire, hframes, Option.bind_some, decodeAll_map_encode]

end Sys2Proof.Machine

/-! The results of the commands left: `start`, whose one request is the initialization (R80), and four more
commands of the shared track-control routine (R85, R86, R88, R89). -/

namespace Sys2Proof.Machine

theorem sinkInit_eq_afterInit (s : State) : sinkInit 57600 s = .next (afterInit s) := rfl

theorem exec_playTrackPoly (trk out : Int) (lock : Bool) (s : State) :
    exec (.playTrackPoly trk out lock) s =
      sinkWrite (buildTrackControlFrame trk .playPoly out (lockFlags lock)) s := rfl

theorem exec_loadTrack (trk out : Int) (lock : Bool) (s : State) :
    exec (.loadTrack trk out lock) s =
      sinkWrite (buildTrackControlFrame trk .load out (lockFlags lock)) s := rfl

theorem exec_pauseTrack (trk : Int) (s : State) :
    exec (.pauseTrack trk) s = sinkWrite (buildTrackControlFrame trk .pause 0 0x00) s := rfl

theorem exec_resumeTrack (trk : Int) (s : State) :
    exec (.resumeTrack trk) s = sinkWrite (buildTrackControlFrame trk .resume 0 0x00) s := rfl

/-- Settles O1: the meaning is the initialization at 57600, and that is the step of R80. -/
theorem startResult : Obligations.StartResult := by
  intro s
  rw [exec_start, sinkInit_eq_afterInit]

/-- Settles O5: the meaning writes the routine's frame of sub-code PLAY_POLY, with the lock bit as its
flags. -/
theorem playTrackPolyResult : Obligations.PlayTrackPolyResult := by
  intro trk out lock s
  rw [exec_playTrackPoly, sinkWrite_buildTrackControlFrame, lockFlags_eq_truthByte]
  rfl

/-- Settles O6: the meaning writes the routine's frame of sub-code LOAD, with the lock bit as its flags. -/
theorem loadTrackResult : Obligations.LoadTrackResult := by
  intro trk out lock s
  rw [exec_loadTrack, sinkWrite_buildTrackControlFrame, lockFlags_eq_truthByte]
  rfl

/-- Settles O8: the meaning writes the routine's frame of sub-code PAUSE, addressed to no output. -/
theorem pauseTrackResult : Obligations.PauseTrackResult := by
  intro trk s
  rw [exec_pauseTrack, sinkWrite_buildTrackControlFrame_unrouted]
  rfl

/-- Settles O9: the meaning writes the routine's frame of sub-code RESUME, addressed to no output. -/
theorem resumeTrackResult : Obligations.ResumeTrackResult := by
  intro trk s
  rw [exec_resumeTrack, sinkWrite_buildTrackControlFrame_unrouted]
  rfl

end Sys2Proof.Machine

/-! The event of an instruction, by the sink's answer: its status, its bytes on the wire, whether it is a
failed write, and what of it depends on the failure value (R20, R21, R97). -/

namespace Sys2Proof.Machine

@[simp] theorem status_eventOf (r : SinkRequest) (st : SinkStatus) : (eventOf r st).status = st := by
  cases r <;> rfl

@[simp] theorem request_eventOf (r : SinkRequest) (st : SinkStatus) : (eventOf r st).request = r := by
  cases r <;> rfl

theorem eventOf_request_status (ev : SinkEvent) : eventOf ev.request ev.status = ev := by
  cases ev <;> rfl

theorem sinkFailure_eventOf_err (r : SinkRequest) (e : SinkErr) :
    (eventOf r (.err e)).sinkFailure = some e := by
  cases r <;> rfl

theorem accepted_eventOf_err (r : SinkRequest) (e : SinkErr) :
    (eventOf r (.err e)).accepted = [] := by
  cases r <;> rfl

/-- R21: the bytes an accepted instruction puts on the wire are its word, none for `start`. -/
theorem accepted_eventOf_request_ok (i : Instr) : (eventOf i.request .ok).accepted = encode i := by
  by_cases hi : i = .start
  · rw [hi]
    rfl
  · rw [request_of_ne_start hi]
    rfl

/-- R21, D16: a failed instruction other than `start` is a failed write. -/
theorem isFailedWrite_eventOf_request (i : Instr) (st : SinkStatus) :
    (eventOf i.request st).isFailedWrite = !(decide (i = .start) || st == .ok) := by
  by_cases hi : i = .start
  · rw [hi]
    simp [request_start, eventOf]
  · rw [request_of_ne_start hi]
    cases st <;> simp [eventOf, hi]

/-- R36, R66, R80: the event of every instruction is one the encoder can make. -/
theorem legal_eventOf_request (i : Instr) (st : SinkStatus) :
    (eventOf i.request st).legal = true := by
  by_cases hi : i = .start
  · rw [hi]
    rfl
  · obtain ⟨hmin, -⟩ := isDelimited_encode hi
    have hne : encode i ≠ [] := List.ne_nil_of_length_pos (by omega)
    have hrow : opcodeTable.any (fun r => r.isInstance (encode i)) = true :=
      List.any_eq_true.2 ⟨i.row, row_mem_opcodeTable i, row_isInstance_encode i⟩
    rw [request_of_ne_start hi]
    simp [eventOf, SinkEvent.legal, hne, hrow]

theorem wire_concat (hist : List SinkEvent) (ev : SinkEvent) :
    wire (hist ++ [ev]) = wire hist ++ ev.accepted := by
  rw [wire_append, wire_singleton]

/-- Settles O19: the one event added has the sink's failure as its cause and no byte on the wire. -/
theorem sinkFailureEffect : Obligations.SinkFailureEffect := by
  intro i s e hanswer
  obtain ⟨t, hexec⟩ := exec_total i s
  obtain ⟨hpos, hhist, hknown, hreturned, -⟩ := exec_next hexec
  rw [hanswer] at hhist hknown hreturned
  have hindex (hlen : s.enc.pos = s.enc.hist.length) :
      t.enc.hist[s.enc.pos]? = some (eventOf i.request (.err e)) := by
    rw [hhist, hlen, List.getElem?_concat_length]
  have hwire : wire t.enc.hist = wire s.enc.hist := by
    rw [hhist, wire_concat, accepted_eventOf_err, List.append_nil]
  have hline : t.enc.wireKnown = (if i = .start then s.enc.wireKnown else false) := by
    by_cases hi : i = .start <;> simp [hknown, hi]
  exact ⟨t, hexec, hhist, sinkFailure_eventOf_err _ e, hreturned, hindex, hwire, hline, hpos⟩

/-- R21: what an accepted instruction does to the wire and to the mark of the line. -/
theorem exec_accepted {i : Instr} {s t : State} (hexec : exec i s = .next t)
    (hanswer : s.sinkAnswer i.request = .ok) :
    wire t.enc.hist = wire s.enc.hist ++ encode i ∧ t.enc.wireKnown = s.enc.wireKnown := by
  obtain ⟨-, hhist, hknown, -⟩ := exec_next hexec
  constructor
  · rw [hhist, hanswer, wire_concat, accepted_eventOf_request_ok]
  · simp [hknown, hanswer]

/-- Settles O20: the one event added is accepted with the instruction's word. -/
theorem acceptedFrameExtendsWire : Obligations.AcceptedFrameExtendsWire := by
  intro i s hanswer
  obtain ⟨t, hexec⟩ := exec_total i s
  exact ⟨t, hexec, exec_accepted hexec hanswer⟩

/-- Settles O21: each of the two executions adds its own event, and its own word when accepted. -/
theorem commandIssuedTwiceAppendsTwice : Obligations.CommandIssuedTwiceAppendsTwice := by
  intro i s
  obtain ⟨t, hfirst⟩ := exec_total i s
  obtain ⟨u, hsecond⟩ := exec_total i t
  obtain ⟨-, hhist, -⟩ := exec_next hfirst
  obtain ⟨-, hhist', -⟩ := exec_next hsecond
  refine ⟨t, u, hfirst, hsecond, by rw [hhist', hhist, List.append_assoc]; rfl, fun hok hok' => ?_⟩
  obtain ⟨hwire, -⟩ := exec_accepted hfirst hok
  obtain ⟨hwire', -⟩ := exec_accepted hsecond hok'
  rw [hwire', hwire]

section rename
variable (g : SinkErr → SinkErr)

theorem renameStatus_beq_ok (st : SinkStatus) : (renameStatus g st == .ok) = (st == .ok) := by
  cases st <;> rfl

/-- Where the answer is a scheduled one, renaming the schedule renames the answer. -/
theorem sinkAnswer_renameState {s : State} (hs : s.answers ≠ []) (r : SinkRequest) :
    (renameState g s).sinkAnswer r = renameStatus g (s.sinkAnswer r) := by
  obtain ⟨a, l, hcons⟩ := List.exists_cons_of_ne_nil hs
  rw [sinkAnswer_scheduled r s a l hcons]
  exact sinkAnswer_scheduled r _ _ (l.map (renameStatus g)) (by simp [renameState, hcons])

theorem settle_stepFrame_renameState (f : Frame) (s : State) (st : SinkStatus) :
    (renameState g s).settle (stepFrame f (renameState g s).enc (renameStatus g st)) =
      renameState g (s.settle (stepFrame f s.enc st)) := by
  simp [State.settle, stepFrame, renameState, renameEvent, renameStatus_beq_ok]

theorem settle_stepStart_renameState (rate : Nat) (s : State) (st : SinkStatus) :
    (renameState g s).settle (stepStart rate (renameState g s).enc (renameStatus g st)) =
      renameState g (s.settle (stepStart rate s.enc st)) := by
  simp [State.settle, stepStart, renameState, renameEvent]

end rename

/-- Settles O22: both common steps commute with the renaming, since a renamed status is `ok` exactly when
the status is. -/
theorem failureValuesAreOpaque : Obligations.FailureValuesAreOpaque := by
  intro g i s hs
  by_cases hi : i = .start
  · refine ⟨_, hi ▸ exec_start s, ?_⟩
    rw [hi, exec_start, sinkInit, sinkAnswer_renameState g hs, settle_stepStart_renameState]
  · refine ⟨_, exec_of_ne_start hi s, ?_⟩
    rw [exec_of_ne_start hi, sinkWrite, sinkAnswer_renameState g hs, settle_stepFrame_renameState]

end Sys2Proof.Machine

/-! A step by what waits at the port: a command, by value, by a word of the map or by a table word, is
executed with the item taken; any other item is refused; with nothing there nothing happens. -/

namespace Sys2Proof.Machine

section fetch
variable {map : CmdWordMap} {item : PortItem} {rest : List PortItem} {s : State}

theorem fetch_of_command {i : Instr} (hport : s.port = item :: rest)
    (hitem : item.command map = .ok i) : fetch map s = .command i { s with port := rest } := by
  simp [fetch, hport, hitem]

theorem fetch_of_refused {r : Refusal} (hport : s.port = item :: rest)
    (hitem : item.command map = .error r) : fetch map s = .refused r := by
  simp [fetch, hport, hitem]

theorem step_of_command {i : Instr} (hport : s.port = item :: rest)
    (hitem : item.command Config.cmdWordMap = .ok i) : step s = exec i { s with port := rest } := by
  simp [step, fetch_of_command hport hitem]

theorem step_of_refused {r : Refusal} (hport : s.port = item :: rest)
    (hitem : item.command Config.cmdWordMap = .error r) : step s = .refused r := by
  simp [step, fetch_of_refused hport hitem]

theorem step_of_port_nil (hport : s.port = []) : step s = .next s := by
  simp [step, fetch, hport]

end fetch

section command
variable {map : CmdWordMap} {w : CmdWord} {f : Frame}

theorem command_word_of_some {c : Cmd} (h : map w = some c) :
    (PortItem.word w).command map = .ok c.toInstr := by
  simp [PortItem.command, h]

theorem command_word_of_none (h : map w = none) :
    (PortItem.word w).command map = .error .unmappedCommandWord := by
  simp [PortItem.command, h]

theorem command_tableWord_of_ok {i : Instr} (h : decode f = .ok i) :
    (PortItem.tableWord f).command map = .ok i := by
  simp [PortItem.command, h]

theorem command_tableWord_of_error {e : DecodeError} (h : decode f = .error e) :
    (PortItem.tableWord f).command map = .error (.badTableWord e) := by
  simp [PortItem.command, h]

end command

theorem decode_of_decodeTableWord {nbits w : Nat} {i : Instr} (h : decodeTableWord nbits w = some i) :
    decode (wordBytes ((nbits + 7) / 8) w) = .ok i := by
  unfold decodeTableWord at h
  split at h
  · rename_i j hj
    rwa [Option.some.inj h] at hj
  · cases h

/-- Settles O44: each of the three items stands for the instruction the step executes. -/
theorem stepRunsTheDecodedCommand : Obligations.StepRunsTheDecodedCommand := by
  refine ⟨fun s c rest hport => step_of_port_cmd hport,
    fun s f i rest hport hi => step_of_command hport (command_tableWord_of_ok hi),
    fun s nbits w i hi => ?_⟩
  exact step_of_command (presentNext_port s _)
    (command_tableWord_of_ok (decode_of_decodeTableWord hi))

/-- Settles O60: the map decides what the item stands for, and so what the fetch and the step do. -/
theorem commandWordsGoThroughTheMapParameter : Obligations.CommandWordsGoThroughTheMapParameter := by
  constructor
  · exact fun map s w rest hport =>
      ⟨fun c hc => fetch_of_command hport (command_word_of_some hc),
        fun hnone => fetch_of_refused hport (command_word_of_none hnone)⟩
  · intro s w rest hport
    cases hmap : Config.cmdWordMap w with
    | some c => exact step_of_command hport (command_word_of_some hmap)
    | none => exact step_of_refused hport (command_word_of_none hmap)

/-- Settles O45: the fetch finds no command. -/
theorem nothingHappensWithoutACommand : Obligations.NothingHappensWithoutACommand :=
  fun _ hport => step_of_port_nil hport

/-- Settles O47: the item stands for no command, by its own name. -/
theorem overlappingCommandsAreRefused : Obligations.OverlappingCommandsAreRefused :=
  fun _ _ _ _ hport => step_of_refused hport rfl

/-- Settles O46: a step on a table word answers as the decoder does, and the decoder accepts exactly the
instances of the rows. -/
theorem wordsOutsideTheTableAreRefused : Obligations.WordsOutsideTheTableAreRefused := by
  intro s f rest hport
  have hnone : (∀ r ∈ opcodeTable, r.isInstance f = false) ↔ ¬ ∃ i, decode f = .ok i := by
    rw [decodes_iff_isInstance]
    simp
  rw [hnone, ← decodes_iff_isInstance]
  cases hdecode : decode f with
  | ok i =>
    obtain ⟨t, hexec⟩ := exec_total i { s with port := rest }
    have hstep := (step_of_command hport (command_tableWord_of_ok hdecode)).trans hexec
    simp [hstep]
  | error e =>
    have hstep := step_of_refused hport (command_tableWord_of_error hdecode)
    simp [hstep]

end Sys2Proof.Machine

/-! The invariant: it holds at both resets, whose histories are empty, and one event more keeps it. -/

namespace Sys2Proof.Machine

theorem noFailedWrite_append (h₁ h₂ : List SinkEvent) :
    noFailedWrite (h₁ ++ h₂) = (noFailedWrite h₁ && noFailedWrite h₂) := by
  simp [noFailedWrite]

theorem noFailedWrite_singleton (ev : SinkEvent) : noFailedWrite [ev] = !ev.isFailedWrite := by
  simp [noFailedWrite]

/-- What a step can do to the encoder, whichever command it runs: nothing when no command waits, else one
event the encoder can make, counted, returned, and marked when it is a failed write. -/
theorem step_event {s t : State} (h : step s = .next t) :
    (s.port = [] ∧ t = s) ∨
      ∃ item ev, s.port = item :: t.port ∧ ev.legal = true ∧
        t.enc.hist = s.enc.hist ++ [ev] ∧ t.enc.pos = s.enc.pos + 1 ∧
        t.enc.wireKnown = (s.enc.wireKnown && noFailedWrite [ev]) ∧ t.returned = some ev.status := by
  obtain hidle | ⟨item, rest, i, hport, -, hexec⟩ := step_next h
  · exact .inl hidle
  · obtain ⟨hpos, hhist, hknown, hreturned, hrest, -⟩ := exec_next hexec
    refine .inr ⟨item, _, hrest ▸ hport, legal_eventOf_request i _, hhist, hpos, ?_, ?_⟩
    · rw [hknown, noFailedWrite_singleton, isFailedWrite_eventOf_request, Bool.not_not]
    · rw [hreturned, status_eventOf]

theorem inv_of_hist_nil {s : State} (hhist : s.enc.hist = []) (hpos : s.enc.pos = 0)
    (hreturned : s.returned = none) : Inv s where
  pos_eq := by rw [hpos, hhist, List.length_nil]
  legal := by simp [hhist]
  known := fun _ => by rw [hhist]; rfl
  returned_eq := by rw [hreturned, hhist]; rfl

/-- Settles O50: both resets have an empty history and have returned nothing. -/
theorem invariantHoldsAtReset : Obligations.InvariantHoldsAtReset :=
  ⟨inv_of_hist_nil rfl rfl rfl, inv_of_hist_nil rfl rfl rfl⟩

/-- Settles O51: the event of a step is the one more of each clause. -/
theorem everyStepKeepsTheInvariant : Obligations.EveryStepKeepsTheInvariant := by
  intro s t hinv hstep
  obtain ⟨-, rfl⟩ | ⟨item, ev, -, hlegal, hhist, hpos, hknown, hreturned⟩ := step_event hstep
  · exact hinv
  · constructor
    case pos_eq => rw [hpos, hhist, hinv.pos_eq, List.length_append, List.length_singleton]
    case legal =>
      intro ev' hev'
      rw [hhist, List.mem_append, List.mem_singleton] at hev'
      obtain hold | rfl := hev'
      · exact hinv.legal ev' hold
      · exact hlegal
    case known =>
      intro ht
      rw [hknown, Bool.and_eq_true] at ht
      rw [hhist, noFailedWrite_append, hinv.known ht.1, ht.2, Bool.and_self]
    case returned_eq => rw [hreturned, hhist, List.getLast?_concat, Option.map_some]

/-- Settles O48: the fields of the reset state, read off. -/
theorem resetValues : Obligations.ResetValues := ⟨rfl, rfl, rfl, wire_nil, rfl, rfl⟩

/-- Settles O49: the mark is false, so the line is not determined. -/
theorem resetWhileTransmitting : Obligations.ResetWhileTransmitting :=
  ⟨rfl, rfl, rfl, Bool.false_ne_true⟩

end Sys2Proof.Machine

/-! Runs: what a step does to the history, the count, the port and the mark of the line, any number of
steps does (R43), so every claim about a run is read off the events it has added. -/

namespace Sys2Proof.Machine

theorem run_succ_of_next {M : Host.Core} {s t : M.State} (h : M.step s = .next t) (n : Nat) :
    M.run (n + 1) s = M.run n t := by
  rw [Host.Core.run, h]

theorem run_succ_of_refused {M : Host.Core} {s : M.State} {r : M.Refusal}
    (h : M.step s = .refused r) (n : Nat) : M.run (n + 1) s = .refused r := by
  rw [Host.Core.run, h]

theorem core_run_succ {s t : State} (h : step s = .next t) (n : Nat) :
    core.run (n + 1) s = core.run n t :=
  run_succ_of_next (M := core) h n

/-- A run that answers a next state has a first step that does. -/
theorem core_run_succ_next {n : Nat} {s t : State} (h : core.run (n + 1) s = .next t) :
    ∃ u, step s = .next u ∧ core.run n u = .next t := by
  cases hstep : step s with
  | next u => exact ⟨u, rfl, (core_run_succ hstep n).symm.trans h⟩
  | fault r => cases r
  | refused r =>
    have hrun : core.run (n + 1) s = .refused r := run_succ_of_refused (M := core) hstep n
    rw [hrun] at h
    cases h

theorem core_run_of_port_nil {s : State} (hport : s.port = []) (n : Nat) :
    core.run n s = .next s := by
  induction n with
  | zero => rfl
  | succ n ih => rw [core_run_succ (step_of_port_nil hport), ih]

/-- Everything a run can do to the encoder: it adds events at the end of the history, one for each item it
takes from the port, and the mark of the line says whether it was set and none of them is a failed write. -/
theorem core_run_next {n : Nat} {s t : State} (h : core.run n s = .next t) :
    ∃ evs : List SinkEvent, t.enc.hist = s.enc.hist ++ evs ∧
      t.enc.pos = s.enc.pos + evs.length ∧ evs.length ≤ n ∧
      s.port.length = t.port.length + evs.length ∧
      t.enc.wireKnown = (s.enc.wireKnown && noFailedWrite evs) := by
  induction n generalizing s with
  | zero =>
    cases h
    exact ⟨[], by simp [noFailedWrite]⟩
  | succ n ih =>
    obtain ⟨u, hstep, hrun⟩ := core_run_succ_next h
    obtain ⟨evs, hhist, hpos, hlen, hport, hknown⟩ := ih hrun
    obtain ⟨-, rfl⟩ | ⟨item, ev, hport', -, hhist', hpos', hknown', -⟩ := step_event hstep
    · exact ⟨evs, hhist, hpos, Nat.le_succ_of_le hlen, hport, hknown⟩
    · refine ⟨ev :: evs, ?_, ?_, Nat.succ_le_succ hlen, ?_, ?_⟩
      · rw [hhist, hhist', List.append_assoc, List.singleton_append]
      · rw [hpos, hpos', List.length_cons]
        omega
      · rw [hport', List.length_cons, hport, List.length_cons]
        omega
      · rw [hknown, hknown', Bool.and_assoc, ← noFailedWrite_append, List.singleton_append]

/-- Settles O52: the mark follows the events, of one step exactly and of a run from false to false. -/
theorem lineMarkIsExactAndSticky : Obligations.LineMarkIsExactAndSticky := by
  constructor
  · intro k s t hs hstep
    obtain ⟨-, rfl⟩ | ⟨item, ev, -, -, hhist, -, hknown, -⟩ := step_event hstep
    · exact hs
    · rw [hknown, hs, hhist, noFailedWrite_append, Bool.and_assoc]
  · intro n s t hrun hs
    obtain ⟨evs, -, -, -, -, hknown⟩ := core_run_next hrun
    rw [hknown, hs, Bool.false_and]

/-- Settles O53: the run adds events at the end, one for each item it takes. -/
theorem historyGrowsOneEventPerCommand : Obligations.HistoryGrowsOneEventPerCommand := by
  intro n s t hrun
  obtain ⟨evs, hhist, hpos, hlen, hport, -⟩ := core_run_next hrun
  exact ⟨evs, hhist, hpos, hlen, hport⟩

/-- Settles O56: the accepted initialization is the first event, and a run only adds events behind it. -/
theorem acceptedStartEstablishesThePremise : Obligations.AcceptedStartEstablishesThePremise := by
  constructor
  · intro s rest hhist hport hanswer
    obtain ⟨t, hexec⟩ := exec_total .start { s with port := rest }
    obtain ⟨-, hhist', -⟩ := exec_next hexec
    refine ⟨t, (step_of_port_cmd hport).trans hexec, ?_⟩
    rw [request_start, sinkAnswer_port, hanswer, hhist] at hhist'
    rw [StartedOk, hhist']
    rfl
  · intro n s t hs hrun
    obtain ⟨evs, hhist, -⟩ := core_run_next hrun
    rw [StartedOk] at hs ⊢
    rw [hhist, List.head?_append, hs, Option.some_or]

end Sys2Proof.Machine

/-! Runs of programs (R121): each command of the program takes one step and adds the event of its request;
where all are accepted the wire grows by the words of the frame commands (R21), which a reader takes back. -/

namespace Sys2Proof.Machine

/-- R18, R121: the first step of a program runs its first command and leaves the others at the port. -/
theorem step_of_program {c : Cmd} {cs : List Cmd} {s : State}
    (hport : s.port = programPort (c :: cs)) :
    ∃ t, step s = .next t ∧ t.port = programPort cs ∧ t.enc.pos = s.enc.pos + 1 ∧
      t.enc.hist = s.enc.hist ++ [eventOf c.toInstr.request (s.sinkAnswer c.toInstr.request)] ∧
      t.answers = s.answers.tail := by
  obtain ⟨t, hexec⟩ := exec_total c.toInstr { s with port := programPort cs }
  obtain ⟨hpos, hhist, -, -, hrest, hanswers, -⟩ := exec_next hexec
  exact ⟨t, (step_of_port_cmd hport).trans hexec, hrest, hpos, hhist, hanswers⟩

/-- Settles O54: by induction on the program, one step for its first command and a run for the others; at
its end the port is empty. -/
theorem runOfAProgram : Obligations.RunOfAProgram := by
  intro cs
  induction cs with
  | nil =>
    intro s hport
    refine ⟨s, [], rfl, hport, rfl, (List.append_nil _).symm, rfl, fun _ => ⟨rfl, rfl⟩, fun k => ?_⟩
    exact core_run_of_port_nil hport _
  | cons c cs ih =>
    intro s hport
    obtain ⟨u, hstep, hrest, hpos, hhist, hanswers⟩ := step_of_program hport
    obtain ⟨t, evs, hrun, hempty, hpos', hhist', hrequests, hstatuses, hidle⟩ := ih u hrest
    refine ⟨t, eventOf c.toInstr.request (s.sinkAnswer c.toInstr.request) :: evs, ?_, hempty, ?_, ?_,
      ?_, ?_, ?_⟩
    · rw [List.length_cons, core_run_succ hstep, hrun]
    · rw [hpos', hpos, List.length_cons]
      omega
    · rw [hhist', hhist, List.append_assoc, List.singleton_append]
    · rw [List.map_cons, List.map_cons, request_eventOf, hrequests]
    · intro hscheduled
      obtain ⟨a, l, hcons⟩ :=
        List.exists_cons_of_length_pos (Nat.lt_of_lt_of_le (Nat.succ_pos _) hscheduled)
      rw [hanswers, hcons, List.tail_cons] at hstatuses
      rw [hcons, List.length_cons, List.length_cons] at hscheduled
      obtain ⟨htake, hdrop⟩ := hstatuses (Nat.le_of_succ_le_succ hscheduled)
      rw [List.map_cons, status_eventOf, sinkAnswer_scheduled _ s a l hcons, htake, hcons]
      exact ⟨rfl, hdrop⟩
    · intro k
      rw [List.length_cons, Nat.succ_add_eq_add_succ, Nat.add_succ, core_run_succ hstep, hidle]

/-- The events of accepted requests are determined by the requests. -/
theorem events_eq_of_accepted {evs : List SinkEvent} {is : List Instr}
    (hrequests : evs.map SinkEvent.request = is.map Instr.request)
    (hok : ∀ ev ∈ evs, ev.status = .ok) : evs = is.map (fun i => eventOf i.request .ok) := by
  have hevents : evs = evs.map (fun ev => eventOf ev.request .ok) := by
    conv_lhs => rw [← List.map_id evs]
    refine List.map_congr_left fun ev hev => ?_
    rw [← hok ev hev, eventOf_request_status]
    rfl
  calc evs = evs.map (fun ev => eventOf ev.request .ok) := hevents
    _ = (evs.map SinkEvent.request).map (eventOf · .ok) := by rw [List.map_map]; rfl
    _ = is.map (fun i => eventOf i.request .ok) := by rw [hrequests, List.map_map]; rfl

/-- R21: accepted instructions put their words on the wire; `start` has none. -/
theorem wire_accepted (is : List Instr) :
    wire (is.map (fun i => eventOf i.request .ok)) =
      ((is.filter (· != .start)).map encode).flatten := by
  induction is with
  | nil => rfl
  | cons i is ih =>
    rw [List.map_cons, ← List.singleton_append, wire_append, wire_singleton,
      accepted_eventOf_request_ok, ih]
    by_cases hi : i = .start <;> simp [hi, encode]

theorem noFailedWrite_of_accepted {evs : List SinkEvent} (hok : ∀ ev ∈ evs, ev.status = .ok) :
    noFailedWrite evs = true := by
  refine List.all_eq_true.2 fun ev hev => ?_
  have hstatus := hok ev hev
  cases ev with
  | init rate st => rfl
  | write f st =>
    rw [status_write] at hstatus
    rw [hstatus]
    rfl

theorem ne_start_of_mem_frameCommands {cs : List Cmd} {i : Instr} (hi : i ∈ frameCommands cs) :
    i ≠ .start := by
  simpa using (List.mem_filter.1 hi).2

/-- Settles O55: the new bytes of the wire are the words of the program's frame commands, which the reader
delimits and decodes; no event is a failed write. -/
theorem acceptedProgramIsReadFromTheWire : Obligations.AcceptedProgramIsReadFromTheWire := by
  intro cs s hport
  obtain ⟨t, evs, hrun, -, -, hhist, hrequests, hstatuses, -⟩ := runOfAProgram cs s hport
  have hrequests' : evs.map SinkEvent.request = (cs.map Cmd.toInstr).map Instr.request := by
    rw [hrequests, List.map_map]
    rfl
  refine ⟨t, evs, hrun, hhist, fun hok => ?accepted, fun hschedule => ?scheduled⟩
  case accepted =>
    refine ⟨((frameCommands cs).map encode).flatten, ?wire, ?read, ?line⟩
    case wire =>
      rw [hhist, wire_append, events_eq_of_accepted hrequests' hok, wire_accepted]
      rfl
    case read =>
      exact (wireIsReadByItsLengthFields _ fun i hi => ne_start_of_mem_frameCommands hi).2
    case line =>
      obtain ⟨evs', hhist', -, -, -, hknown⟩ := core_run_next hrun
      have hevs : evs' = evs := List.append_cancel_left (hhist'.symm.trans hhist)
      rw [hknown, hevs, noFailedWrite_of_accepted hok, Bool.and_true]
  case scheduled =>
    have hlen : cs.length ≤ s.answers.length := by
      have htake := congrArg List.length hschedule
      rw [List.length_take, List.length_replicate] at htake
      omega
    obtain ⟨htake, -⟩ := hstatuses hlen
    intro ev hev
    have hmem : ev.status ∈ List.replicate cs.length SinkStatus.ok := by
      rw [← hschedule, ← htake]
      exact List.mem_map_of_mem hev
    exact List.eq_of_mem_replicate hmem

end Sys2Proof.Machine

/-! The scratch buffer (R19, R33, R75): the writes of a frame are its bytes, each at its own index, so any
order of them leaves the frame in a buffer of its length. -/

namespace Sys2Proof.Machine

theorem indexed_append (i : Nat) (a b : List Byte) :
    indexed i (a ++ b) = indexed i a ++ indexed (i + a.length) b := by
  induction a generalizing i with
  | nil => rfl
  | cons x a ih =>
    rw [List.cons_append, indexed, ih, indexed, List.cons_append, List.length_cons,
      Nat.add_right_comm, Nat.add_assoc]

theorem mem_indexed_of_getElem? {f : Frame} {j : Nat} {b : Byte} (h : f[j]? = some b) (i : Nat) :
    (i + j, b) ∈ indexed i f := by
  induction f generalizing i j with
  | nil => simp at h
  | cons x f ih =>
    cases j with
    | zero => simp_all [indexed]
    | succ j =>
      rw [indexed, show i + (j + 1) = i + 1 + j by omega]
      exact List.mem_cons_of_mem _ (ih (by simpa using h) (i + 1))

/-- R33, R47: the writes that build a frame are the frame's bytes at their indices. -/
theorem frameWrites_eq_indexed {op : Opcode} {body : List Byte} (hbody : body.length + 5 = op.frameLen) :
    frameWrites op body = indexed 0 (packFrame op body) := by
  have hend : op.frameLen - 1 = 4 + body.length := by omega
  rw [frameWrites, packFrame, indexed_append, indexed_append, hend, List.length_append, Nat.zero_add,
    Nat.zero_add]
  rfl

/-- Writes that each put the frame's own byte at its index, and reach every index where the buffer differs
from the frame, leave the frame. -/
theorem bufWrites_eq_of_covers {f buf : Frame} {ws : List (Nat × Byte)}
    (hlen : buf.length = f.length) (hbytes : ∀ w ∈ ws, f[w.1]? = some w.2)
    (hcovers : ∀ j, (∃ b, (j, b) ∈ ws) ∨ buf[j]? = f[j]?) : bufWrites ws buf = f := by
  induction ws generalizing buf with
  | nil => exact List.ext_getElem? fun j => by simpa using hcovers j
  | cons w ws ih =>
    have hbyte : f[w.1]? = some w.2 := hbytes w (by simp)
    have hlt : w.1 < buf.length := hlen ▸ (List.getElem?_eq_some_iff.1 hbyte).1
    rw [bufWrites_cons]
    refine ih ((bufWrite_length _ _ _).trans hlen) (fun v hv => hbytes v (by simp [hv])) fun j => ?_
    by_cases hj : w.1 = j
    · subst hj
      exact .inr ((bufWrite_same _ _ _ hlt).trans hbyte.symm)
    · rw [bufWrite_other _ _ _ _ hj]
      obtain ⟨b, hb⟩ | hsame := hcovers j
      · obtain rfl | htail := List.mem_cons.1 hb
        · exact absurd rfl hj
        · exact .inl ⟨b, htail⟩
      · exact .inr hsame

/-- Settles O34: the writes, in whatever order, are the frame's bytes, one at every index. -/
theorem scratchBufferBuildsTheFrame : Obligations.ScratchBufferBuildsTheFrame := by
  intro op body buf ws hbody hbuf hperm
  rw [frameWrites_eq_indexed hbody] at hperm
  have hlen : buf.length = (packFrame op body).length := by rw [hbuf, packFrame_length, hbody]
  refine bufWrites_eq_of_covers hlen (fun w hw => ?_) fun j => ?_
  · obtain ⟨-, -, hbyte⟩ := mem_indexed (hperm.mem_iff.1 hw)
    exact hbyte
  · cases hj : (packFrame op body)[j]? with
    | some b =>
      have hmem := mem_indexed_of_getElem? hj 0
      rw [Nat.zero_add] at hmem
      exact .inl ⟨b, hperm.mem_iff.2 hmem⟩
    | none =>
      rw [List.getElem?_eq_none_iff] at hj
      exact .inr (List.getElem?_eq_none (by omega))

end Sys2Proof.Machine

/-! Words of the text (R68): names, numerals and truth values hold no space, comma, dot, parenthesis or line
end, so the reader cuts a text between them; and a numeral or a truth value is read as what it was written for. -/

namespace Sys2Proof.Machine

/-- The character is none of those that part the words of a program's text. -/
def isWordChar (c : Char) : Bool := !decide (c ∈ [' ', ',', '.', '(', ')', '\n'])

/-- A name, a numeral or a truth value: at least one character, and none that parts words. -/
def IsWord (w : List Char) : Prop := w ≠ [] ∧ ∀ c ∈ w, isWordChar c = true

theorem IsWord.not_mem {w : List Char} (hw : IsWord w) {sep : Char} (hsep : isWordChar sep = false) :
    ∀ c ∈ w, c ≠ sep := by
  obtain ⟨-, hchars⟩ := hw
  rintro c hc rfl
  rw [hchars c hc] at hsep
  cases hsep

theorem isWordChar_digitChar (d : Nat) (h : d < 10) : isWordChar (digitChar d) = true := by
  revert h
  revert d
  decide

/-- A decimal literal is at least one digit, and the digits have the number's value. -/
theorem renderNat_eq_map_digitChar (n : Nat) :
    ∃ ds : List Nat, ds ≠ [] ∧ (∀ d ∈ ds, d < 10) ∧ renderNat n = ds.map digitChar ∧
      ds.foldl (fun a d => a * 10 + d) 0 = n := by
  by_cases hn : n = 0
  · exact ⟨[0], by simp, by simp, by simp [renderNat, hn, digitChar], by simp [hn]⟩
  · refine ⟨(Nat.digits 10 n).reverse, ?_, ?_, by rw [renderNat, if_neg hn], ?_⟩
    · simpa [Nat.digits_eq_nil_iff_eq_zero] using hn
    · exact fun d hd => Nat.digits_lt_base (by decide) (List.mem_reverse.1 hd)
    · rw [List.foldl_reverse]
      conv_rhs => rw [← Nat.ofDigits_digits 10 n, Nat.ofDigits_eq_foldr]
      simp [Nat.add_comm, Nat.mul_comm]

theorem isWord_renderNat (n : Nat) : IsWord (renderNat n) := by
  obtain ⟨ds, hne, hdigits, hrender, -⟩ := renderNat_eq_map_digitChar n
  rw [hrender]
  refine ⟨by simpa using hne, fun c hc => ?_⟩
  obtain ⟨d, hd, rfl⟩ := List.mem_map.1 hc
  exact isWordChar_digitChar d (hdigits d hd)

theorem not_mem_renderNat {c : Char} (hc : ∀ d < 10, digitChar d ≠ c) (n : Nat) :
    c ∉ renderNat n := by
  obtain ⟨ds, -, hdigits, hrender, -⟩ := renderNat_eq_map_digitChar n
  rw [hrender]
  intro hmem
  obtain ⟨d, hd, heq⟩ := List.mem_map.1 hmem
  exact hc d (hdigits d hd) heq

/-- A text without `x` is read as a decimal literal. -/
theorem readNat_of_not_mem {l : List Char} (hne : l ≠ []) (hx : 'x' ∉ l) :
    readNat l = readDigits 10 l 0 := by
  unfold readNat
  split
  · exact absurd rfl hne
  · simp at hx
  · rfl

theorem readNat_renderNat (n : Nat) : readNat (renderNat n) = some n := by
  rw [readNat_of_not_mem (isWord_renderNat n).1 (not_mem_renderNat (by decide) n)]
  obtain ⟨ds, -, hdigits, hrender, hvalue⟩ := renderNat_eq_map_digitChar n
  rw [hrender, readDigits_map_digitChar ds hdigits, hvalue]

theorem isWord_renderInt (v : Int) : IsWord (renderInt v) := by
  obtain ⟨hne, hchars⟩ := isWord_renderNat v.natAbs
  unfold renderInt
  split
  · refine ⟨List.cons_ne_nil _ _, fun c hc => ?_⟩
    obtain rfl | htail := List.mem_cons.1 hc
    · decide
    · exact hchars c htail
  · exact ⟨hne, hchars⟩

/-- A text without a sign is read as a natural number. -/
theorem readInt_of_not_mem {l : List Char} (hsign : '-' ∉ l) :
    readInt l = (readNat l).map (fun n => (n : Int)) := by
  unfold readInt
  split
  · simp at hsign
  · rfl

theorem readInt_renderInt (v : Int) : readInt (renderInt v) = some v := by
  unfold renderInt
  split
  case isTrue hneg => simp [readInt, readNat_renderNat, abs_of_neg hneg]
  case isFalse hnonneg =>
    rw [readInt_of_not_mem (not_mem_renderNat (by decide) _)]
    simp [readNat_renderNat, abs_of_nonneg (not_lt.1 hnonneg)]

theorem isWord_renderBool (b : Bool) : IsWord (renderBool b) := by
  cases b <;> simp [IsWord, renderBool, isWordChar]

theorem readBool_renderBool (b : Bool) : readBool (renderBool b) = some b := by
  cases b <;> decide

end Sys2Proof.Machine

/-! Calls of the text (R68): the reader takes from `name(arg, ..., arg)` the name and the arguments, and a
command is written as the call of its name with its operands. -/

namespace Sys2Proof.Machine

/-- The text neither begins nor ends with a space. -/
def IsTight (l : List Char) : Prop := l.head? ≠ some ' ' ∧ l.getLast? ≠ some ' '

theorem trimSpaces_of_isTight {l : List Char} (hl : IsTight l) : trimSpaces l = l := by
  obtain ⟨hhead, hlast⟩ := hl
  refine trimSpaces_of_ends l ?_ ?_
  · rintro c cs rfl rfl
    exact hhead rfl
  · rintro c cs hrev rfl
    rw [← List.head?_reverse, hrev] at hlast
    exact hlast rfl

theorem IsWord.isTight {w : List Char} (hw : IsWord w) : IsTight w :=
  ⟨fun h => hw.not_mem (by decide) _ (List.mem_of_head? h) rfl,
    fun h => hw.not_mem (by decide) _ (List.mem_of_getLast? h) rfl⟩

/-- A text is tight when its first and its last part are, whatever stands between them. -/
theorem isTight_append {a b : List Char} (m : List Char) (ha : IsTight a) (hane : a ≠ [])
    (hb : IsTight b) (hbne : b ≠ []) : IsTight (a ++ m ++ b) := by
  constructor
  · rw [List.append_assoc, List.head?_append_of_ne_nil _ hane]
    exact ha.1
  · rw [List.getLast?_append_of_ne_nil _ hbne]
    exact hb.2

/-- The joined arguments are none, one, or a first one, a comma and a space, and the joined others. -/
theorem joinArgs_cons {a : List Char} {args : List (List Char)} (hne : args ≠ []) :
    joinArgs (a :: args) = a ++ [',', ' '] ++ joinArgs args := by
  cases args with
  | nil => exact absurd rfl hne
  | cons b args => rfl

theorem joinArgs_ne_nil {args : List (List Char)} (hargs : ∀ a ∈ args, IsWord a) (hne : args ≠ []) :
    joinArgs args ≠ [] := by
  cases args with
  | nil => exact absurd rfl hne
  | cons a args =>
    obtain ⟨hane, -⟩ := hargs a (by simp)
    cases args with
    | nil => exact hane
    | cons b args => simp [joinArgs]

theorem isTight_joinArgs {args : List (List Char)} (hargs : ∀ a ∈ args, IsWord a) :
    IsTight (joinArgs args) := by
  induction args with
  | nil => simp [joinArgs, IsTight]
  | cons a args ih =>
    have ha := hargs a (by simp)
    have htail : ∀ b ∈ args, IsWord b := fun b hb => hargs b (by simp [hb])
    by_cases hne : args = []
    · rw [hne]
      exact ha.isTight
    · rw [joinArgs_cons hne]
      exact isTight_append _ ha.isTight ha.1 (ih htail) (joinArgs_ne_nil htail hne)

theorem splitAtChar_ne_nil (sep : Char) (l : List Char) : splitAtChar sep l ≠ [] := by
  cases l with
  | nil => simp [splitAtChar]
  | cons c l =>
    unfold splitAtChar
    split
    · simp
    · split <;> simp

/-- A space before the first part is trimmed away. -/
theorem map_trimSpaces_splitAtChar_space (l : List Char) :
    (splitAtChar ',' (' ' :: l)).map trimSpaces = (splitAtChar ',' l).map trimSpaces := by
  cases hparts : splitAtChar ',' l with
  | nil => exact absurd hparts (splitAtChar_ne_nil ',' l)
  | cons p ps => simp [splitAtChar, hparts, trimSpaces]

/-- The reader takes joined words apart. -/
theorem map_trimSpaces_splitAtChar_joinArgs {args : List (List Char)} (hargs : ∀ a ∈ args, IsWord a)
    (hne : args ≠ []) : (splitAtChar ',' (joinArgs args)).map trimSpaces = args := by
  induction args with
  | nil => exact absurd rfl hne
  | cons a args ih =>
    have ha := hargs a (by simp)
    have hcomma := ha.not_mem (sep := ',') (by decide)
    have htrim := trimSpaces_of_isTight ha.isTight
    by_cases hnil : args = []
    · rw [hnil, joinArgs, splitAtChar_of_not_mem _ _ hcomma, List.map_singleton, htrim]
    · have hsplit : splitAtChar ',' (joinArgs (a :: args)) =
          a :: splitAtChar ',' (' ' :: joinArgs args) := by
        rw [joinArgs_cons hnil, List.append_assoc]
        exact splitAtChar_append ',' a _ hcomma
      rw [hsplit, List.map_cons, htrim, map_trimSpaces_splitAtChar_space,
        ih (fun b hb => hargs b (by simp [hb])) hnil]

theorem newline_not_mem_joinArgs {args : List (List Char)} (hargs : ∀ a ∈ args, IsWord a) :
    '\n' ∉ joinArgs args := by
  induction args with
  | nil => simp [joinArgs]
  | cons a args ih =>
    have ha : '\n' ∉ a := fun hmem => (hargs a (by simp)).not_mem (by decide) _ hmem rfl
    have htail := ih fun b hb => hargs b (by simp [hb])
    by_cases hnil : args = []
    · rwa [hnil]
    · rw [joinArgs_cons hnil]
      simp [ha, htail]

section call
variable {name : String} {args : List (List Char)}

theorem isTight_renderCall (hname : IsWord name.toList) : IsTight (renderCall name args) := by
  have hcall : renderCall name args = name.toList ++ ('(' :: joinArgs args) ++ [')'] := by
    simp [renderCall]
  rw [hcall]
  exact isTight_append _ hname.isTight hname.1 (by simp [IsTight]) (by simp)

theorem newline_not_mem_renderCall (hname : IsWord name.toList) (hargs : ∀ a ∈ args, IsWord a) :
    '\n' ∉ renderCall name args := by
  have hname' : '\n' ∉ name.toList := fun hmem => hname.not_mem (by decide) _ hmem rfl
  simp [renderCall, hname', newline_not_mem_joinArgs hargs]

theorem takeWhile_renderCall (hname : IsWord name.toList) :
    (renderCall name args).takeWhile (· != '(') = name.toList := by
  have hchars : ∀ c ∈ name.toList, (c != '(') = true :=
    fun c hc => bne_iff_ne.2 (hname.not_mem (by decide) c hc)
  rw [renderCall, List.append_assoc, List.append_assoc, List.takeWhile_append_of_pos hchars]
  simp

theorem dropWhile_renderCall (hname : IsWord name.toList) :
    (renderCall name args).dropWhile (· != '(') = '(' :: (joinArgs args ++ [')']) := by
  have hchars : ∀ c ∈ name.toList, (c != '(') = true :=
    fun c hc => bne_iff_ne.2 (hname.not_mem (by decide) c hc)
  rw [renderCall, List.append_assoc, List.append_assoc, List.dropWhile_append_of_pos hchars]
  simp

/-- R68: the reader takes a call apart. -/
theorem readCall_renderCall (hname : IsWord name.toList) (hargs : ∀ a ∈ args, IsWord a) :
    readCall (renderCall name args) = some (name.toList, args) := by
  have hargTexts : (if joinArgs args = [] then []
      else (splitAtChar ',' (joinArgs args)).map trimSpaces) = args := by
    by_cases hnil : args = []
    · rw [hnil]
      rfl
    · rw [if_neg (joinArgs_ne_nil hargs hnil), map_trimSpaces_splitAtChar_joinArgs hargs hnil]
  simp only [readCall, trimSpaces_of_isTight (isTight_renderCall hname), dropWhile_renderCall hname,
    takeWhile_renderCall hname, trimSpaces_of_isTight hname.isTight, List.getLast?_concat,
    List.dropLast_concat, trimSpaces_of_isTight (isTight_joinArgs hargs), hargTexts, if_true]

end call

/-- R60, R67: the operation name of a command and its operands, in the source's order. -/
def Cmd.call : Cmd → String × List (List Char)
  | .start => ("start", [])
  | .setMasterGain out gain => ("setMasterGain", [renderInt out, renderInt gain])
  | .playTrackSolo trk out lock =>
    ("playTrackSolo", [renderInt trk, renderInt out, renderBool lock])
  | .playTrackPoly trk out lock =>
    ("playTrackPoly", [renderInt trk, renderInt out, renderBool lock])
  | .loadTrack trk out lock => ("loadTrack", [renderInt trk, renderInt out, renderBool lock])
  | .stopTrack trk => ("stopTrack", [renderInt trk])
  | .pauseTrack trk => ("pauseTrack", [renderInt trk])
  | .resumeTrack trk => ("resumeTrack", [renderInt trk])
  | .setTrackLoop trk enable => ("setTrackLoop", [renderInt trk, renderBool enable])
  | .stopAllTracks => ("stopAllTracks", [])
  | .resumeAllInSync => ("resumeAllInSync", [])
  | .setTrackGain trk gain => ("setTrackGain", [renderInt trk, renderInt gain])
  | .fadeTrack trk gain timeMs stopAtEnd =>
    ("fadeTrack", [renderInt trk, renderInt gain, renderInt timeMs, renderBool stopAtEnd])
  | .setSampleRateOffset out offset => ("setSampleRateOffset", [renderInt out, renderInt offset])

/-- R68: the written form of a command is that call. -/
theorem render_eq_renderCall (c : Cmd) : c.render = renderCall c.call.1 c.call.2 := by
  cases c <;> rfl

theorem isWord_call_name (c : Cmd) : IsWord c.call.1.toList := by
  cases c <;> simp [Cmd.call, IsWord, isWordChar]

theorem isWord_call_args (c : Cmd) : ∀ a ∈ c.call.2, IsWord a := by
  cases c <;> simp [Cmd.call, isWord_renderInt, isWord_renderBool]

section reading
variable (x y z : Int) (b : Bool)

theorem readIntOnly_rendered (mk : Int → Cmd) : readIntOnly mk [renderInt x] = some (mk x) := by
  simp [readIntOnly, readInt_renderInt]

theorem readIntInt_rendered (mk : Int → Int → Cmd) :
    readIntInt mk [renderInt x, renderInt y] = some (mk x y) := by
  simp [readIntInt, readInt_renderInt]

theorem readIntBool_rendered (mk : Int → Bool → Cmd) :
    readIntBool mk [renderInt x, renderBool b] = some (mk x b) := by
  simp [readIntBool, readInt_renderInt, readBool_renderBool]

theorem readIntIntBool_rendered (mk : Int → Int → Bool → Cmd) :
    readIntIntBool mk [renderInt x, renderInt y, renderBool b] = some (mk x y b) := by
  simp [readIntIntBool, readInt_renderInt, readBool_renderBool]

theorem readIntIntIntBool_rendered (mk : Int → Int → Int → Bool → Cmd) :
    readIntIntIntBool mk [renderInt x, renderInt y, renderInt z, renderBool b] =
      some (mk x y z b) := by
  simp [readIntIntIntBool, readInt_renderInt, readBool_renderBool]

end reading

/-- R68: the call of a command is read as the command. -/
theorem commandOf_call (c : Cmd) : commandOf c.call.1.toList c.call.2 = some c := by
  cases c with
  | start | stopAllTracks | resumeAllInSync => rfl
  | setMasterGain | setTrackGain | setSampleRateOffset =>
    simp [Cmd.call, commandOf, readIntInt_rendered]
  | playTrackSolo | playTrackPoly | loadTrack => simp [Cmd.call, commandOf, readIntIntBool_rendered]
  | stopTrack | pauseTrack | resumeTrack => simp [Cmd.call, commandOf, readIntOnly_rendered]
  | setTrackLoop => simp [Cmd.call, commandOf, readIntBool_rendered]
  | fadeTrack => simp [Cmd.call, commandOf, readIntIntIntBool_rendered]

theorem takeWhile_dot_of_isWord {w : List Char} (hw : IsWord w) : w.takeWhile (· != '.') = w :=
  List.takeWhile_eq_self_iff.2 fun c hc => bne_iff_ne.2 (hw.not_mem (by decide) c hc)

/-- R66: the name of a command's row, up to a dot, is the operation name. -/
theorem takeWhile_mnemonic (c : Cmd) :
    c.toInstr.row.mnemonic.toList.takeWhile (· != '.') = c.call.1.toList := by
  have hname := takeWhile_dot_of_isWord (isWord_call_name c)
  cases c with
  | setTrackLoop trk enable =>
    cases enable <;>
      simp [Cmd.call, Cmd.toInstr, Instr.row, Row.setTrackLoopOn, Row.setTrackLoopOff]
  | _ => exact hname

/-- Settles O57: the written form up to the parenthesis is the operation name, and so is the row's name. -/
theorem commandSelectsTheRowOfItsName : Obligations.CommandSelectsTheRowOfItsName := by
  intro c
  rw [takeWhile_mnemonic, render_eq_renderCall, takeWhile_renderCall (isWord_call_name c)]

theorem parseCommand_render (c : Cmd) : parseCommand c.render = some c := by
  simp only [parseCommand, render_eq_renderCall,
    readCall_renderCall (isWord_call_name c) (isWord_call_args c), commandOf_call]

/-- Settles O58: the reader takes the call apart, and the call is read as the command. -/
theorem commandTextRoundTrip : Obligations.CommandTextRoundTrip := parseCommand_render

theorem newline_not_mem_render (c : Cmd) : '\n' ∉ c.render := by
  rw [render_eq_renderCall]
  exact newline_not_mem_renderCall (isWord_call_name c) (isWord_call_args c)

theorem trimSpaces_render (c : Cmd) : trimSpaces c.render = c.render := by
  rw [render_eq_renderCall]
  exact trimSpaces_of_isTight (isTight_renderCall (isWord_call_name c))

theorem render_ne_nil (c : Cmd) : c.render ≠ [] := by
  rw [render_eq_renderCall]
  simp [renderCall]

theorem parseLines_render_cons (c : Cmd) (ls : List (List Char)) :
    parseLines (c.render :: ls) = (parseLines ls).map (c :: ·) := by
  simp only [parseLines, trimSpaces_render, render_ne_nil, if_false, parseCommand_render]

/-- Settles O59: by induction on the program; each line end parts a command from the rest of the text, and
what follows the last one is an empty line. -/
theorem programTextRoundTrip : Obligations.ProgramTextRoundTrip := by
  intro cs
  induction cs with
  | nil => rfl
  | cons c cs ih =>
    have hline : ∀ ch ∈ c.render, ch ≠ '\n' := fun _ hch heq =>
      newline_not_mem_render c (heq ▸ hch)
    rw [parseProgram] at ih ⊢
    rw [renderProgram, splitAtChar_append '\n' _ _ hline, parseLines_render_cons, ih, Option.map_some]

end Sys2Proof.Machine
